-- ==== Sys2Proof/Word.lean ====
section
/-! DEFINITION. The value types of the block: words, register numbers, access information, absolute addresses. -/

namespace Sys2Proof

/-- A Word: 36 bits, read as ones'-complement where a rule says so (R12, R14 of 00_scope.md). -/
abbrev Word := BitVec 36

/-- A DoubleWord: 72 bits, the high Word in bits 71 to 36 (R12, R14). -/
abbrev DWord := BitVec 72

/-- A GRS address, 0 to 127: the RD, RA and RB fields of a command word (R20, R81). -/
abbrev GrsAddr := BitVec 7

/-- A base-register number, 0 to 31 (R37). -/
abbrev BrNum := BitVec 5

/-- AccessInfo: an access lock or an access key (R14, R42, R96). -/
structure AccessInfo where
  ring : BitVec 2
  domain : BitVec 16
  deriving DecidableEq, Repr, Inhabited

/-- AccessPermissions: enter, read, write for one access class (R14, R42). -/
structure AccessPerms where
  enter : Bool
  read : Bool
  write : Bool
  deriving DecidableEq, Repr, Inhabited

/-- An absolute address `(upi, seg, off)` (R60). `off` is a natural number: R230 and R250 add to it without a
width. -/
structure AbsAddr where
  upi : BitVec 18
  seg : BitVec 18
  off : Nat
  deriving DecidableEq, Repr, Inhabited

end Sys2Proof
end

