-- ==== Sys2Proof/Machine/Bits.lean ====
section
/-! DEFINITION. The primitives of R12 (00_scope.md): ones'-complement values and patterns, extension, word halves, and
single bits of a register word. -/

namespace Sys2Proof.Machine

/-- `−0_N`: all ones, also `mask_N` (R12, R94). -/
def negZero (n : Nat) : BitVec n := BitVec.allOnes n

/-- `val_N(v)`: the integer a ones'-complement pattern denotes (R12). -/
def val {n : Nat} (v : BitVec n) : Int := if v.msb then -((~~~v).toNat : Int) else (v.toNat : Int)

/-- `oc_N(i)`: the ones'-complement pattern of an integer with `|i| ≤ 2^(N−1) − 1`; never −0 (R12). -/
def oc (n : Nat) (i : Int) : BitVec n := BitVec.ofInt n (if 0 ≤ i then i else (2 ^ n - 1 : Int) + i)

/-- The largest magnitude an N-bit pattern denotes, `2^(N−1) − 1` (R12). -/
def maxMag (n : Nat) : Int := 2 ^ (n - 1) - 1

/-- `v · 2^p` in `w` bits: a field placed at bit `p` of a word. Words are put together from placed fields with `|||`,
the fields' bits being disjoint. -/
def place {n : Nat} (w : Nat) (v : BitVec n) (p : Nat) : BitVec w := v.setWidth w <<< p

/-- `dw(h, l)` (R12). -/
def dw (h l : Word) : DWord := place 72 h 36 ||| place 72 l 0

/-- `hi(d)` (R12). -/
def hi (d : DWord) : Word := d.extractLsb' 36 36

/-- `lo(d)` (R12). -/
def lo (d : DWord) : Word := d.extractLsb' 0 36

/-- The field of `len` bits from bit `low` up, zero-extended to a Word (`zext_36(v[hi:lo])`, R10, R12). -/
def zfield (v : Word) (low len : Nat) : Word := (v.extractLsb' low len).setWidth 36

/-- The field of `len` bits from bit `low` up, sign-extended to a Word (`sext(v[hi:lo])`, R12). -/
def sfield (v : Word) (low len : Nat) : Word := (v.extractLsb' low len).signExtend 36

/-- `v` with bit `i` made `b`. -/
def withBit (v : Word) (i : Nat) (b : Bool) : Word :=
  if b then v ||| BitVec.twoPow 36 i else v &&& ~~~(BitVec.twoPow 36 i)

/-- A truth value as the number 0 or 1 (R13). -/
def bit (b : Bool) : Word := if b then 1 else 0

end Sys2Proof.Machine
end

