-- ==== Sys2Proof/Config.lean ====
section
/-! DEFINITION. The configuration inputs of the block (R7, R9 of 00_scope.md): the parameters the spec leaves OPEN, as
plain data, and the free value a read of a word shared with another agent answers. -/

namespace Sys2Proof

/-- The fill of an algebraic left shift of a negative value (R9 `AlgLeftFill`, R155). -/
inductive AlgLeftFill where
  | sign
  | zero
  deriving DecidableEq, Repr, Inhabited

/-- A handler id, a natural number below 2^35 (R106, R270). -/
abbrev HandlerId := Fin (2 ^ 35)

/-- A quantum-timer charge, a natural number below 2^35 (R106, R274). -/
abbrev Charge := Fin (2 ^ 35)

/-- An entry of a third-level table, indexed by the a-field (R270). -/
inductive Slot3 where
  | none
  | handler (h : HandlerId)
  deriving DecidableEq, Repr, Inhabited

/-- An entry of a second-level table, indexed by the j-field; `sub` holds its third-level table (R270). -/
inductive Slot2 where
  | none
  | handler (h : HandlerId)
  | sub (t3 : Vector Slot3 16)
  deriving DecidableEq, Repr, Inhabited

/-- An entry of a top-level table, indexed by the f-field; `sub` holds its second-level table (R270). -/
inductive Slot1 where
  | none
  | handler (h : HandlerId)
  | sub (t2 : Vector Slot2 16)
  deriving DecidableEq, Repr, Inhabited

/-- The parameter `DispatchTable`: one top-level table of 64 entries for each mode (R270). -/
structure DispatchTable where
  basic : Vector Slot1 64
  extended : Vector Slot1 64
  deriving DecidableEq, Repr

/-- The parameter `QCharge`: "a documented default and per-handler overrides" (R274). -/
structure QCharge where
  standard : Charge
  overrides : List (HandlerId × Charge)
  deriving DecidableEq, Repr

/-- A range of absolute addresses of one unit and segment: offsets `first` to `last`, or from `first` on. -/
structure AddrRange where
  upi : BitVec 18
  seg : BitVec 18
  first : Nat
  last : Option Nat
  deriving DecidableEq, Repr

/-- The parameter `StoragePresent` (R61): the addresses in `ranges` exist exactly if `others` is false, every other
address exists exactly if `others` is true. Log entry 8. -/
structure StoragePresence where
  others : Bool
  ranges : List AddrRange
  deriving DecidableEq, Repr

/-- The configuration inputs, fixed for a run (R7, R9). Log entry 13. -/
structure Config where
  algLeftFill : AlgLeftFill
  dispatch : DispatchTable
  qCharge : QCharge
  storage : StoragePresence
  /-- The words another execution context or the host may write during the run (R72). Log entry 9. -/
  shared : List AddrRange
  deriving DecidableEq, Repr

/-- FREE VALUE (R72: "A model reads a word that another context (or the host) may write during the run as a draw: any
36-bit value"). Draw number `n` of the run. No body: nothing is known of it. Log entry 9. -/
opaque Config.foreignDraw : Nat → Word

end Sys2Proof
end

