-- ==== Sys2Proof/Syntax.lean ====
section
/-! DEFINITION. The commands of the block, one constructor per row of spec/opcode_table.json (R86 of 30_encoding.md).
Only the fields a command uses are arguments: the others are ignored (R83). -/

namespace Sys2Proof

/-- The two layouts of an index register (R41): `STD` (18-bit XI, 18-bit XM) and `EXEC24` (12-bit XI, 24-bit XM). -/
inductive XLayout where
  | std
  | exec24
  deriving DecidableEq, Repr, Inhabited

/-- A command (R86). Register groups are named by their first register. -/
inductive Instr where
  -- 41_arithmetic.md
  | add (rd ra rb : GrsAddr)
  | sub (rd ra rb : GrsAddr)
  | neg (rd ra : GrsAddr)
  | dadd (rd ra rb : GrsAddr)
  | dsub (rd ra rb : GrsAddr)
  | dneg (rd ra : GrsAddr)
  | mul (rd ra rb : GrsAddr)
  | muls (rd ra rb : GrsAddr)
  | div (rd ra rb : GrsAddr)
  | divs (rd ra rb : GrsAddr)
  | cmp (rd ra rb : GrsAddr)
  | dcmp (rd ra rb : GrsAddr)
  -- 42_logical_shift.md
  | and (rd ra rb : GrsAddr)
  | or (rd ra rb : GrsAddr)
  | xor (rd ra rb : GrsAddr)
  | dand (rd ra rb : GrsAddr)
  | dor (rd ra rb : GrsAddr)
  | dxor (rd ra rb : GrsAddr)
  | lsc (rd ra rb : GrsAddr)
  | rsc (rd ra rb : GrsAddr)
  | lsl (rd ra rb : GrsAddr)
  | rsl (rd ra rb : GrsAddr)
  | lsa (rd ra rb : GrsAddr)
  | rsa (rd ra rb : GrsAddr)
  | dlsc (rd ra rb : GrsAddr)
  | drsc (rd ra rb : GrsAddr)
  | dlsl (rd ra rb : GrsAddr)
  | drsl (rd ra rb : GrsAddr)
  | dlsa (rd ra rb : GrsAddr)
  | drsa (rd ra rb : GrsAddr)
  -- 43_field_char.md
  | exts (rd ra : GrsAddr) (n : BitVec 7)
  | dexts (rd ra : GrsAddr) (n : BitVec 7)
  | fldx (rd ra : GrsAddr) (j : BitVec 4) (qw : Bool)
  | fldi (rd ra rb : GrsAddr) (j : BitVec 4) (qw : Bool)
  | packa (rd ra : GrsAddr) (k : BitVec 7)
  | unpka (rd ra : GrsAddr)
  | packf (rd ra : GrsAddr) (k : BitVec 7)
  | unpkf (rd ra : GrsAddr)
  -- 46_register_file.md
  | mov (rd ra : GrsAddr)
  | ldi (rd : GrsAddr) (lit : Word)
  | rddr (rd : GrsAddr)
  | wrdr (ra : GrsAddr)
  | rdpar (rd : GrsAddr)
  | wrpar (ra : GrsAddr)
  | rdkey (rd : GrsAddr)
  | wrkey (ra : GrsAddr)
  | rdstat (rd : GrsAddr)
  | updf
  | xinc (rd : GrsAddr) (lay : XLayout)
  | xdec (rd : GrsAddr) (lay : XLayout)
  | grsa (rd : GrsAddr) (kind : BitVec 2) (n : BitVec 4)
  -- 44_translation.md
  | xlt (rd ra : GrsAddr) (k : BrNum) (intent : BitVec 2)
  | xltn (rd ra rb : GrsAddr) (k : BrNum) (intent : BitVec 2)
  | ld (rd ra : GrsAddr) (k : BrNum)
  | st (ra rb : GrsAddr) (k : BrNum)
  | dld (rd ra : GrsAddr) (k : BrNum)
  | dst (ra rb : GrsAddr) (k : BrNum)
  | ldbr (ra : GrsAddr) (k : BrNum)
  | stbr (rd : GrsAddr) (k : BrNum)
  | basebd (ra rb : GrsAddr) (k : BrNum)
  | ea (rd ra : GrsAddr)
  -- 45_dispatch_rcs.md
  | disp (rd ra : GrsAddr)
  | rcschk (rd : GrsAddr)
  | rcswr (ra : GrsAddr)
  | rcswrs (tag : BitVec 2)
  | rcspop (rd : GrsAddr)
  | vecrd (rd : GrsAddr) (c : BitVec 6)
  deriving DecidableEq, Repr

end Sys2Proof
end

