-- ==== Sys2Proof/WellFormed.lean ====
section
/-! DEFINITION. Which commands are legal before they read anything: their K value is legal (R85) and their register
groups end at or before GRS address 127 (R84). A command that is not is `BadCommand` (R332, R336 step 1). -/

namespace Sys2Proof

/-- The register group `r, r+1, …, r+n−1` ends at or before address 127 (R84). -/
def groupInGrs (r : GrsAddr) (n : Nat) : Bool := decide (r.toNat + n ≤ 128)

/-- The K value and the register groups of a command are legal (R84, R85). -/
def Instr.wellFormed : Instr → Bool
  | .dadd rd ra rb | .dsub rd ra rb | .dand rd ra rb | .dor rd ra rb | .dxor rd ra rb =>
      groupInGrs rd 2 && groupInGrs ra 2 && groupInGrs rb 2
  | .dneg rd ra => groupInGrs rd 2 && groupInGrs ra 2
  | .mul rd _ _ | .divs rd _ _ => groupInGrs rd 2
  | .div rd ra _ => groupInGrs rd 2 && groupInGrs ra 2
  | .dcmp _ ra rb => groupInGrs ra 2 && groupInGrs rb 2
  | .dlsc rd ra _ | .drsc rd ra _ | .dlsl rd ra _ | .drsl rd ra _ | .dlsa rd ra _ | .drsa rd ra _ =>
      groupInGrs rd 2 && groupInGrs ra 2
  | .exts _ _ n => decide (1 ≤ n.toNat) && decide (n.toNat ≤ 36)
  | .dexts rd ra n => decide (1 ≤ n.toNat) && decide (n.toNat ≤ 72) && groupInGrs rd 2 && groupInGrs ra 2
  | .fldi _ _ _ j _ => decide (j.toNat < 14)
  | .packa _ ra k => groupInGrs ra (min k.toNat 4)
  | .packf _ ra k => groupInGrs ra (min k.toNat 6)
  | .unpka rd _ => groupInGrs rd 4
  | .unpkf rd _ => groupInGrs rd 6
  | .grsa _ kind _ => decide (kind ≠ 3)
  | .xlt rd _ _ intent | .xltn rd _ _ _ intent => decide (intent ≠ 3) && groupInGrs rd 2
  | .dld rd _ _ => groupInGrs rd 2
  | .dst _ rb _ => groupInGrs rb 2
  | .ldbr ra _ => groupInGrs ra 4
  | .stbr rd _ => groupInGrs rd 4
  | .ea rd _ | .disp rd _ | .rcspop rd => groupInGrs rd 2
  | .rcswr ra => groupInGrs ra 2
  | .add _ _ _ | .sub _ _ _ | .neg _ _ | .muls _ _ _ | .cmp _ _ _ | .and _ _ _ | .or _ _ _ | .xor _ _ _
  | .lsc _ _ _ | .rsc _ _ _ | .lsl _ _ _ | .rsl _ _ _ | .lsa _ _ _ | .rsa _ _ _ | .fldx _ _ _ _ | .mov _ _
  | .ldi _ _ | .rddr _ | .wrdr _ | .rdpar _ | .wrpar _ | .rdkey _ | .wrkey _ | .rdstat _ | .updf | .xinc _ _
  | .xdec _ _ | .ld _ _ _ | .st _ _ _ | .basebd _ _ _ | .rcschk _ | .rcswrs _ | .vecrd _ _ => true

end Sys2Proof
end

