-- ==== Sys2Proof/Decode.lean ====
section
/-! DEFINITION. The decoder of command words, total on any words of the command port, and the encoder (R80 to R87 of
30_encoding.md). -/

namespace Sys2Proof

open Sys2Proof.Machine

/-- Why a sequence of command-port words is no command (R87, R336 step 1). Each is `BadCommand` at the step. -/
inductive DecodeError where
  /-- There is no command word. -/
  | noCommand
  /-- The OP value is not in the opcode map (R87). -/
  | undefinedOp (op : BitVec 8)
  /-- LDI without its literal word (R82, R332). -/
  | literalMissing
  deriving DecidableEq, Repr

/-- OP, cw[35:28] (R81). -/
def fOP (cw : Word) : BitVec 8 := cw.extractLsb' 28 8
/-- RD, cw[27:21] (R81). -/
def fRD (cw : Word) : GrsAddr := cw.extractLsb' 21 7
/-- RA, cw[20:14] (R81). -/
def fRA (cw : Word) : GrsAddr := cw.extractLsb' 14 7
/-- RB, cw[13:7] (R81). -/
def fRB (cw : Word) : GrsAddr := cw.extractLsb' 7 7
/-- K, cw[6:0] (R81). -/
def fK (cw : Word) : BitVec 7 := cw.extractLsb' 0 7
/-- K[4:0]: a base register (R85). -/
def fBr (cw : Word) : BrNum := cw.extractLsb' 0 5
/-- K[6:5]: an intent, or the kind of GRSA (R85). -/
def fKTop (cw : Word) : BitVec 2 := cw.extractLsb' 5 2
/-- K[3:0]: a partial-word designator j, or the number of GRSA (R85). -/
def fJ (cw : Word) : BitVec 4 := cw.extractLsb' 0 4
/-- K[4]: quarter-word mode of FLDX and FLDI (R85). -/
def fQw (cw : Word) : Bool := cw.getLsbD 4
/-- K[0]: the layout of XINC and XDEC (R85). -/
def fLayout (cw : Word) : XLayout := if cw.getLsbD 0 then .exec24 else .std
/-- K[1:0]: the caller tag of RCSWRS (R85). -/
def fTag (cw : Word) : BitVec 2 := cw.extractLsb' 0 2
/-- K[5:0]: the interrupt class of VECRD (R85). -/
def fClass (cw : Word) : BitVec 6 := cw.extractLsb' 0 6

/-- The command of an operation code, its other fields taken from the command word `cw`, the literal of LDI from the
words that follow (R82 to R87). -/
def decodeOp (op : BitVec 8) (cw : Word) (rest : List Word) : Except DecodeError Instr :=
  match op.toNat with
  | 0x01 => .ok (.add (fRD cw) (fRA cw) (fRB cw))
  | 0x02 => .ok (.sub (fRD cw) (fRA cw) (fRB cw))
  | 0x03 => .ok (.neg (fRD cw) (fRA cw))
  | 0x04 => .ok (.dadd (fRD cw) (fRA cw) (fRB cw))
  | 0x05 => .ok (.dsub (fRD cw) (fRA cw) (fRB cw))
  | 0x06 => .ok (.dneg (fRD cw) (fRA cw))
  | 0x07 => .ok (.mul (fRD cw) (fRA cw) (fRB cw))
  | 0x08 => .ok (.muls (fRD cw) (fRA cw) (fRB cw))
  | 0x09 => .ok (.div (fRD cw) (fRA cw) (fRB cw))
  | 0x0A => .ok (.divs (fRD cw) (fRA cw) (fRB cw))
  | 0x0B => .ok (.cmp (fRD cw) (fRA cw) (fRB cw))
  | 0x0C => .ok (.dcmp (fRD cw) (fRA cw) (fRB cw))
  | 0x10 => .ok (.and (fRD cw) (fRA cw) (fRB cw))
  | 0x11 => .ok (.or (fRD cw) (fRA cw) (fRB cw))
  | 0x12 => .ok (.xor (fRD cw) (fRA cw) (fRB cw))
  | 0x14 => .ok (.dand (fRD cw) (fRA cw) (fRB cw))
  | 0x15 => .ok (.dor (fRD cw) (fRA cw) (fRB cw))
  | 0x16 => .ok (.dxor (fRD cw) (fRA cw) (fRB cw))
  | 0x20 => .ok (.lsc (fRD cw) (fRA cw) (fRB cw))
  | 0x21 => .ok (.rsc (fRD cw) (fRA cw) (fRB cw))
  | 0x22 => .ok (.lsl (fRD cw) (fRA cw) (fRB cw))
  | 0x23 => .ok (.rsl (fRD cw) (fRA cw) (fRB cw))
  | 0x24 => .ok (.lsa (fRD cw) (fRA cw) (fRB cw))
  | 0x25 => .ok (.rsa (fRD cw) (fRA cw) (fRB cw))
  | 0x28 => .ok (.dlsc (fRD cw) (fRA cw) (fRB cw))
  | 0x29 => .ok (.drsc (fRD cw) (fRA cw) (fRB cw))
  | 0x2A => .ok (.dlsl (fRD cw) (fRA cw) (fRB cw))
  | 0x2B => .ok (.drsl (fRD cw) (fRA cw) (fRB cw))
  | 0x2C => .ok (.dlsa (fRD cw) (fRA cw) (fRB cw))
  | 0x2D => .ok (.drsa (fRD cw) (fRA cw) (fRB cw))
  | 0x30 => .ok (.exts (fRD cw) (fRA cw) (fK cw))
  | 0x31 => .ok (.dexts (fRD cw) (fRA cw) (fK cw))
  | 0x32 => .ok (.fldx (fRD cw) (fRA cw) (fJ cw) (fQw cw))
  | 0x33 => .ok (.fldi (fRD cw) (fRA cw) (fRB cw) (fJ cw) (fQw cw))
  | 0x34 => .ok (.packa (fRD cw) (fRA cw) (fK cw))
  | 0x35 => .ok (.unpka (fRD cw) (fRA cw))
  | 0x36 => .ok (.packf (fRD cw) (fRA cw) (fK cw))
  | 0x37 => .ok (.unpkf (fRD cw) (fRA cw))
  | 0x40 => .ok (.mov (fRD cw) (fRA cw))
  | 0x41 => match rest with
    | [] => .error .literalMissing
    | lit :: _ => .ok (.ldi (fRD cw) lit)
  | 0x42 => .ok (.rddr (fRD cw))
  | 0x43 => .ok (.wrdr (fRA cw))
  | 0x44 => .ok (.rdpar (fRD cw))
  | 0x45 => .ok (.wrpar (fRA cw))
  | 0x46 => .ok (.rdkey (fRD cw))
  | 0x47 => .ok (.wrkey (fRA cw))
  | 0x48 => .ok (.rdstat (fRD cw))
  | 0x49 => .ok .updf
  | 0x4A => .ok (.xinc (fRD cw) (fLayout cw))
  | 0x4B => .ok (.xdec (fRD cw) (fLayout cw))
  | 0x4C => .ok (.grsa (fRD cw) (fKTop cw) (fJ cw))
  | 0x50 => .ok (.xlt (fRD cw) (fRA cw) (fBr cw) (fKTop cw))
  | 0x51 => .ok (.xltn (fRD cw) (fRA cw) (fRB cw) (fBr cw) (fKTop cw))
  | 0x52 => .ok (.ld (fRD cw) (fRA cw) (fBr cw))
  | 0x53 => .ok (.st (fRA cw) (fRB cw) (fBr cw))
  | 0x54 => .ok (.dld (fRD cw) (fRA cw) (fBr cw))
  | 0x55 => .ok (.dst (fRA cw) (fRB cw) (fBr cw))
  | 0x56 => .ok (.ldbr (fRA cw) (fBr cw))
  | 0x57 => .ok (.stbr (fRD cw) (fBr cw))
  | 0x58 => .ok (.basebd (fRA cw) (fRB cw) (fBr cw))
  | 0x59 => .ok (.ea (fRD cw) (fRA cw))
  | 0x60 => .ok (.disp (fRD cw) (fRA cw))
  | 0x61 => .ok (.rcschk (fRD cw))
  | 0x62 => .ok (.rcswr (fRA cw))
  | 0x63 => .ok (.rcswrs (fTag cw))
  | 0x64 => .ok (.rcspop (fRD cw))
  | 0x65 => .ok (.vecrd (fRD cw) (fClass cw))
  | _ => .error (.undefinedOp op)

/-- The command in the words the command port delivers from the command position on (R80 to R87). -/
def decode : List Word → Except DecodeError Instr
  | [] => .error .noCommand
  | cw :: rest => decodeOp (fOP cw) cw rest

/-- The length of a command in words: 2 for LDI, else 1 (R80, R82). -/
def Instr.length : Instr → Nat
  | .ldi _ _ => 2
  | .add _ _ _ | .sub _ _ _ | .neg _ _ | .dadd _ _ _ | .dsub _ _ _ | .dneg _ _ | .mul _ _ _ | .muls _ _ _
  | .div _ _ _ | .divs _ _ _ | .cmp _ _ _ | .dcmp _ _ _ | .and _ _ _ | .or _ _ _ | .xor _ _ _ | .dand _ _ _
  | .dor _ _ _ | .dxor _ _ _ | .lsc _ _ _ | .rsc _ _ _ | .lsl _ _ _ | .rsl _ _ _ | .lsa _ _ _ | .rsa _ _ _
  | .dlsc _ _ _ | .drsc _ _ _ | .dlsl _ _ _ | .drsl _ _ _ | .dlsa _ _ _ | .drsa _ _ _ | .exts _ _ _
  | .dexts _ _ _ | .fldx _ _ _ _ | .fldi _ _ _ _ _ | .packa _ _ _ | .unpka _ _ | .packf _ _ _ | .unpkf _ _
  | .mov _ _ | .rddr _ | .wrdr _ | .rdpar _ | .wrpar _ | .rdkey _ | .wrkey _ | .rdstat _ | .updf | .xinc _ _
  | .xdec _ _ | .grsa _ _ _ | .xlt _ _ _ _ | .xltn _ _ _ _ _ | .ld _ _ _ | .st _ _ _ | .dld _ _ _ | .dst _ _ _
  | .ldbr _ _ | .stbr _ _ | .basebd _ _ _ | .ea _ _ | .disp _ _ | .rcschk _ | .rcswr _ | .rcswrs _ | .rcspop _
  | .vecrd _ _ => 1


/-- `OP·2^28 + RD·2^21 + RA·2^14 + RB·2^7 + K` (R81). -/
def commandWord (op : BitVec 8) (rd ra rb : GrsAddr) (k : BitVec 7) : Word :=
  place 36 op 28 ||| place 36 rd 21 ||| place 36 ra 14 ||| place 36 rb 7 ||| place 36 k 0

/-- K of a command that names a base register: K[6:5] is ignored and written 0 (R85, R88). -/
def kBr (k : BrNum) : BitVec 7 := place 7 k 0
/-- K of XLT and XLTN (R85). -/
def kIntent (intent : BitVec 2) (k : BrNum) : BitVec 7 := place 7 intent 5 ||| place 7 k 0
/-- K of FLDX and FLDI (R85). -/
def kField (j : BitVec 4) (qw : Bool) : BitVec 7 := place 7 (BitVec.ofBool qw) 4 ||| place 7 j 0
/-- K of GRSA (R85). -/
def kKind (kind : BitVec 2) (n : BitVec 4) : BitVec 7 := place 7 kind 5 ||| place 7 n 0
/-- K of XINC and XDEC (R85). -/
def kLayout : XLayout → BitVec 7
  | .std => 0
  | .exec24 => 1
/-- K of RCSWRS (R85). -/
def kTag (tag : BitVec 2) : BitVec 7 := place 7 tag 0
/-- K of VECRD (R85). -/
def kClass (c : BitVec 6) : BitVec 7 := place 7 c 0

/-- The words of a command; fields it does not use are 0 (R81, R86, R88). -/
def encode : Instr → List Word
  | .add rd ra rb => [commandWord 0x01 rd ra rb 0]
  | .sub rd ra rb => [commandWord 0x02 rd ra rb 0]
  | .neg rd ra => [commandWord 0x03 rd ra 0 0]
  | .dadd rd ra rb => [commandWord 0x04 rd ra rb 0]
  | .dsub rd ra rb => [commandWord 0x05 rd ra rb 0]
  | .dneg rd ra => [commandWord 0x06 rd ra 0 0]
  | .mul rd ra rb => [commandWord 0x07 rd ra rb 0]
  | .muls rd ra rb => [commandWord 0x08 rd ra rb 0]
  | .div rd ra rb => [commandWord 0x09 rd ra rb 0]
  | .divs rd ra rb => [commandWord 0x0A rd ra rb 0]
  | .cmp rd ra rb => [commandWord 0x0B rd ra rb 0]
  | .dcmp rd ra rb => [commandWord 0x0C rd ra rb 0]
  | .and rd ra rb => [commandWord 0x10 rd ra rb 0]
  | .or rd ra rb => [commandWord 0x11 rd ra rb 0]
  | .xor rd ra rb => [commandWord 0x12 rd ra rb 0]
  | .dand rd ra rb => [commandWord 0x14 rd ra rb 0]
  | .dor rd ra rb => [commandWord 0x15 rd ra rb 0]
  | .dxor rd ra rb => [commandWord 0x16 rd ra rb 0]
  | .lsc rd ra rb => [commandWord 0x20 rd ra rb 0]
  | .rsc rd ra rb => [commandWord 0x21 rd ra rb 0]
  | .lsl rd ra rb => [commandWord 0x22 rd ra rb 0]
  | .rsl rd ra rb => [commandWord 0x23 rd ra rb 0]
  | .lsa rd ra rb => [commandWord 0x24 rd ra rb 0]
  | .rsa rd ra rb => [commandWord 0x25 rd ra rb 0]
  | .dlsc rd ra rb => [commandWord 0x28 rd ra rb 0]
  | .drsc rd ra rb => [commandWord 0x29 rd ra rb 0]
  | .dlsl rd ra rb => [commandWord 0x2A rd ra rb 0]
  | .drsl rd ra rb => [commandWord 0x2B rd ra rb 0]
  | .dlsa rd ra rb => [commandWord 0x2C rd ra rb 0]
  | .drsa rd ra rb => [commandWord 0x2D rd ra rb 0]
  | .exts rd ra n => [commandWord 0x30 rd ra 0 n]
  | .dexts rd ra n => [commandWord 0x31 rd ra 0 n]
  | .fldx rd ra j qw => [commandWord 0x32 rd ra 0 (kField j qw)]
  | .fldi rd ra rb j qw => [commandWord 0x33 rd ra rb (kField j qw)]
  | .packa rd ra k => [commandWord 0x34 rd ra 0 k]
  | .unpka rd ra => [commandWord 0x35 rd ra 0 0]
  | .packf rd ra k => [commandWord 0x36 rd ra 0 k]
  | .unpkf rd ra => [commandWord 0x37 rd ra 0 0]
  | .mov rd ra => [commandWord 0x40 rd ra 0 0]
  | .ldi rd lit => [commandWord 0x41 rd 0 0 0, lit]
  | .rddr rd => [commandWord 0x42 rd 0 0 0]
  | .wrdr ra => [commandWord 0x43 0 ra 0 0]
  | .rdpar rd => [commandWord 0x44 rd 0 0 0]
  | .wrpar ra => [commandWord 0x45 0 ra 0 0]
  | .rdkey rd => [commandWord 0x46 rd 0 0 0]
  | .wrkey ra => [commandWord 0x47 0 ra 0 0]
  | .rdstat rd => [commandWord 0x48 rd 0 0 0]
  | .updf => [commandWord 0x49 0 0 0 0]
  | .xinc rd lay => [commandWord 0x4A rd 0 0 (kLayout lay)]
  | .xdec rd lay => [commandWord 0x4B rd 0 0 (kLayout lay)]
  | .grsa rd kind n => [commandWord 0x4C rd 0 0 (kKind kind n)]
  | .xlt rd ra k intent => [commandWord 0x50 rd ra 0 (kIntent intent k)]
  | .xltn rd ra rb k intent => [commandWord 0x51 rd ra rb (kIntent intent k)]
  | .ld rd ra k => [commandWord 0x52 rd ra 0 (kBr k)]
  | .st ra rb k => [commandWord 0x53 0 ra rb (kBr k)]
  | .dld rd ra k => [commandWord 0x54 rd ra 0 (kBr k)]
  | .dst ra rb k => [commandWord 0x55 0 ra rb (kBr k)]
  | .ldbr ra k => [commandWord 0x56 0 ra 0 (kBr k)]
  | .stbr rd k => [commandWord 0x57 rd 0 0 (kBr k)]
  | .basebd ra rb k => [commandWord 0x58 0 ra rb (kBr k)]
  | .ea rd ra => [commandWord 0x59 rd ra 0 0]
  | .disp rd ra => [commandWord 0x60 rd ra 0 0]
  | .rcschk rd => [commandWord 0x61 rd 0 0 0]
  | .rcswr ra => [commandWord 0x62 0 ra 0 0]
  | .rcswrs tag => [commandWord 0x63 0 0 0 (kTag tag)]
  | .rcspop rd => [commandWord 0x64 rd 0 0 0]
  | .vecrd rd c => [commandWord 0x65 rd 0 0 (kClass c)]

/-- The two 36-bit command-port words whose bits are `w`, bit 0 the least significant bit of the first word, the
second word in bits 71 to 36. `nbits` is how many bits the table gives; a command word has 36. Log entry 16. -/
def tableWords (nbits w : Nat) : List Word :=
  let w := w % 2 ^ max nbits 36
  [BitVec.ofNat 36 w, BitVec.ofNat 36 (w >>> 36)]

/-- The command the decoder reads from a row of the opcode table. -/
def decodeTableWord (nbits w : Nat) : Option Instr :=
  match decode (tableWords nbits w) with
  | .ok i => some i
  | .error _ => none

end Sys2Proof
end

