-- ==== Sys2Proof/Machine/State.lean ====
section
/-! DEFINITION. The state of the block as plain data, its reset, and the reasons a command can end without a next
state (10_state.md; R330 to R333 of 60_exceptions.md; R371 of 70_reset_and_hazards.md). -/

namespace Sys2Proof.Machine

/-- The status latch STAT (R35): carry, overflow, divide overflow, unresolved address. -/
structure Stat where
  c : Bool
  o : Bool
  d : Bool
  u : Bool
  deriving DecidableEq, Repr

/-- A base register (R37). `lower` and `upper` are never negative (R230, R231), so they are natural numbers: log
entry 18. -/
structure BaseReg where
  void : Bool
  base : AbsAddr
  large : Bool
  lower : Nat
  upper : Nat
  lock : AccessInfo
  gap : AccessPerms
  sap : AccessPerms
  deriving DecidableEq, Repr

/-- `CanonicalVoid` (R236), the reset value of every base register (R40). -/
def BaseReg.canonicalVoid : BaseReg where
  void := true
  base := ⟨0, 0, 0⟩
  large := false
  lower := 1
  upper := 0
  lock := ⟨0, 0⟩
  gap := ⟨false, false, false⟩
  sap := ⟨false, false, false⟩

/-- Which registers have been written since reset (R25, R29, R32, R34). No meaning reads it: the spec's outcome
`Refused(Unwritten)` is the view of Machine/Unwritten.lean (log entry 5). -/
structure Written where
  grs : Vector Bool 128
  dr : Bool
  par : Bool
  key : Bool
  deriving DecidableEq, Repr

/-- A listed storage word: its absolute address and its contents (R60, log entry 6). -/
abbrev Cell := AbsAddr × Word

/-- Absolute storage (R60): the listed words, by rising `addrKey`, none of them 0, which is what an unlisted word
reads as (`Memory.wf` of Machine/Ops.lean; log entries 6 and 7). -/
abbrev Memory := List Cell

/-- The machine: the block's registers, its configuration inputs, the command port's list and position, and the
storage it reaches. -/
structure State where
  /-- The configuration inputs (R7, R9). -/
  cfg : Config
  /-- The command words of the run (R43, R380). -/
  cmds : List Word
  /-- The command position (R43). -/
  cp : Nat
  /-- The general register set (R20). -/
  grs : Vector Word 128
  /-- The designator register (R26, R27). -/
  dr : Word
  /-- The program-address register (R30). -/
  par : Word
  /-- The access key register, ring in bits 17 to 16, domain in bits 15 to 0 (R33). -/
  key : BitVec 18
  /-- The status latch (R35). -/
  stat : Stat
  /-- The base registers (R37). -/
  br : Vector BaseReg 32
  /-- Absolute storage (R60). -/
  mem : Memory
  /-- Which registers have been written since reset (R25). -/
  written : Written
  /-- The MODEL's own: how many words have been drawn from `Config.foreignDraw` (R72, log entry 9). -/
  draws : Nat
  deriving DecidableEq, Repr

/-- Which check of a reference violation failed (R332): storage limits (ssf 1), read (2), write (3). -/
inductive RefKind where
  | limits
  | read
  | write
  deriving DecidableEq, Repr

/-- Which check of an addressing exception failed (R332): invalid L/BDI (ssf 1), descriptor outside its table (2),
general-fault flag (3). -/
inductive AddrKind where
  | invalidLBDI
  | outsideTable
  | generalFault
  deriving DecidableEq, Repr

/-- The direction of an RCS fault (R279): overflow (ssf 1) or underflow (ssf 2). -/
inductive RcsKind where
  | overflow
  | underflow
  deriving DecidableEq, Repr

/-- `Fault(rec)` (R330, R332): the kinds of fault and what each record carries. Every one is the spec's own outcome,
stops the run and writes nothing (R331): safe. The record's fields are `Fault.record` of Machine/Faults.lean. -/
inductive Fault where
  /-- Raised by XLT, XLTN, LD, ST, DLD, DST, RCSWR, RCSWRS, RCSPOP, VECRD (R249, R332). Safe. -/
  | refViol (kind : RefKind) (fetch : Bool) (br : BrNum) (addr : Word)
  /-- Raised by BASEBD when DR.fhip = 0 (R240, R332). Safe. -/
  | addrExc (kind : AddrKind) (l : BitVec 3) (bdi : BitVec 15)
  /-- Raised by BASEBD when DR.fhip = 1 (R240, R332). Safe. -/
  | termAddrExc (kind : AddrKind) (l : BitVec 3) (bdi : BitVec 15)
  /-- Raised by RCSCHK (overflow) and RCSPOP (underflow) with the attempted frame pointer (R279). Safe. -/
  | rcsFault (kind : RcsKind) (fp : Word)
  /-- Raised by DISP on a lookup miss, with the instruction word (R271). Safe. -/
  | invalidInstruction (iw : Word)
  /-- Raised for a command word that is no legal command, with that word (R84, R85, R87, R332). Safe. -/
  | badCommand (cw : Word)
  /-- Raised by DIV and DIVS on a zero divisor (R118). Safe. -/
  | arithmeticException
  deriving DecidableEq, Repr

/-- `Refused(reason)` (R333): the outcomes without a fault record. -/
inductive Refusal where
  /-- `NoStorage`: a storage access names an address that does not exist; the first such address. Raised by LD, ST,
  DLD, DST, BASEBD, RCSWR, RCSWRS, RCSPOP, VECRD (R61). The spec's own outcome: safe. -/
  | noStorage (a : AbsAddr)
  /-- `Unwritten`: a register without a value is read (R25). No meaning raises it; only `specStep`, the spec's view of
  Machine/Unwritten.lean, does (log entry 5). Safe. -/
  | unwritten
  /-- A host string function was given a character above 0o777 (R186, R333). No command raises it. Safe. -/
  | wideCharacter (code : Nat)
  /-- The instruction has no meaning in this model yet: raised by exec's arms alone. Safe. -/
  | notModelled (mnemonic : String)
  deriving DecidableEq, Repr

/-- The configuration inputs of `State.reset`: AlgLeftFill at its default (R9), an empty DispatchTable, charge 0,
every address present, no word shared (log entries 8 to 12). -/
def resetConfig : Config where
  algLeftFill := .sign
  dispatch := ⟨Vector.replicate 64 .none, Vector.replicate 64 .none⟩
  qCharge := ⟨0, []⟩
  storage := ⟨true, []⟩
  shared := []

/-- The block right after reset (R370, R371). GRS, DR, PAR and KEY hold 0 and are marked unwritten (log entries 1 to
5). -/
def State.reset : State where
  cfg := resetConfig
  cmds := []
  cp := 0
  grs := Vector.replicate 128 0
  dr := 0
  par := 0
  key := 0
  stat := ⟨false, false, false, false⟩
  br := Vector.replicate 32 BaseReg.canonicalVoid
  mem := []
  written := ⟨Vector.replicate 128 false, false, false, false⟩
  draws := 0

end Sys2Proof.Machine
end

