-- ==== Sys2Proof/Machine/Faults.lean ====
section
/-! DEFINITION. The fault record and the words the host reads it as (R330, R332 of 60_exceptions.md). -/

namespace Sys2Proof.Machine

/-- The fault record `(class, ssf, fetch, br, info)` (R330). -/
structure FaultRecord where
  cls : Nat
  ssf : Nat
  fetch : Bool
  br : BrNum
  info : Word
  deriving DecidableEq, Repr

/-- Sub-reason of a reference violation (R332). -/
def refSsf : RefKind → Nat
  | .limits => 1
  | .read => 2
  | .write => 3

/-- Sub-reason of an addressing exception (R332). -/
def addrSsf : AddrKind → Nat
  | .invalidLBDI => 1
  | .outsideTable => 2
  | .generalFault => 3

/-- Sub-reason of an RCS fault (R332). -/
def rcsSsf : RcsKind → Nat
  | .overflow => 1
  | .underflow => 2

/-- `BDT_BR(L)` = 16 + L (R9, R240). -/
def bdtBr (l : BitVec 3) : BrNum := 16 + l.setWidth 5

/-- `L·2^33 + BDI·2^18` (R105, R332). -/
def lbdiWord (l : BitVec 3) (bdi : BitVec 15) : Word := place 36 l 33 ||| place 36 bdi 18

/-- The record of each fault kind, with the class numbers of parameter `ClassNo` (R332). -/
def Fault.record : Fault → FaultRecord
  | .refViol kind fetch br addr => ⟨8, refSsf kind, fetch, br, addr⟩
  | .addrExc kind l bdi => ⟨9, addrSsf kind, false, bdtBr l, lbdiWord l bdi⟩
  | .termAddrExc kind l bdi => ⟨10, addrSsf kind, false, bdtBr l, lbdiWord l bdi⟩
  | .rcsFault kind fp => ⟨11, rcsSsf kind, false, 25, fp⟩
  | .invalidInstruction iw => ⟨14, 0, false, 0, iw⟩
  | .badCommand cw => ⟨14, 1, false, 0, cw⟩
  | .arithmeticException => ⟨16, 0, false, 0, 0⟩

/-- I0 = class·2^30 + ssf·2^22 + fetch·2^21 + br·2^16 (R330). -/
def FaultRecord.i0 (r : FaultRecord) : Word :=
  BitVec.ofNat 36 (r.cls * 2 ^ 30 + r.ssf * 2 ^ 22 + r.fetch.toNat * 2 ^ 21 + r.br.toNat * 2 ^ 16)

/-- I1 = info (R330). -/
def FaultRecord.i1 (r : FaultRecord) : Word := r.info

end Sys2Proof.Machine
end

