-- ==== Sys2Proof/Machine/Ops.lean ====
section
/-! DEFINITION. The named operations over registers and storage, and the ways a command ends (R7 of 00_scope.md,
10_state.md, 20_memory.md, R331, R338, R339 of 60_exceptions.md). -/

namespace Sys2Proof.Machine

/-- How a command ends (R7). -/
abbrev Result := Host.Outcome State Fault Refusal

/-- `Done`: the command's writes are performed (R7). -/
def done (s : State) : Result := .next s

/-- TAKING AN EXCEPTION, as R331 and R338 describe it: the command ends with `Fault(rec)` and nothing changes. The block
saves nothing, switches no mode, reads no vector: entering a handler is the executive layer's, and so is returning from
one (R339: there is no return-from-interrupt command). -/
def raise (f : Fault) : Result := .fault f

/-- `Refused(reason)` (R333). -/
def refuse (r : Refusal) : Result := .refused r

/-- The command word at the command position (R43); 0 where the list holds none. -/
def State.command (s : State) : Word := s.cmds.getD s.cp 0

/-- `BadCommand`, with the command word as its information (R332). -/
def badCommand (s : State) : Result := raise (.badCommand s.command)

/-! Registers -/

/-- `x[r]` (R12, R20). -/
def State.x (s : State) (r : GrsAddr) : Word := s.grs[r.toNat]'r.isLt

/-- `x[r] <- v` (R12, R20); "a write makes the location written" (R25). -/
def State.setX (s : State) (r : GrsAddr) (v : Word) : State :=
  { s with
    grs := s.grs.set r.toNat v r.isLt
    written := { s.written with grs := s.written.grs.set r.toNat true r.isLt } }

/-- The register `i` places after `r` in a group (R84). -/
def grsPlus (r : GrsAddr) (i : Nat) : GrsAddr := r + BitVec.ofNat 7 i

/-- `dw(x[r], x[r+1])` (R12). -/
def State.pair (s : State) (r : GrsAddr) : DWord := dw (s.x r) (s.x (grsPlus r 1))

/-- `x[r] <- hi(d); x[r+1] <- lo(d)`. -/
def State.setPair (s : State) (r : GrsAddr) (d : DWord) : State := (s.setX r (hi d)).setX (grsPlus r 1) (lo d)

/-- `x[r+i] <- ws[i]`, in rising order: the destination groups of UNPKA, UNPKF and STBR. -/
def State.setGroup (s : State) (r : GrsAddr) : List Word → State
  | [] => s
  | w :: ws => (s.setX r w).setGroup (grsPlus r 1) ws

/-- `DR <- v` (R28). -/
def State.setDr (s : State) (v : Word) : State := { s with dr := v, written := { s.written with dr := true } }

/-- `PAR <- v` (R31). -/
def State.setPar (s : State) (v : Word) : State := { s with par := v, written := { s.written with par := true } }

/-- `KEY <- v` (R33). -/
def State.setKey (s : State) (v : BitVec 18) : State := { s with key := v, written := { s.written with key := true } }

/-- `STAT <- v` (R35). -/
def State.setStat (s : State) (v : Stat) : State := { s with stat := v }

/-- `B[k]` (R37). -/
def State.b (s : State) (k : BrNum) : BaseReg := s.br[k.toNat]'k.isLt

/-- `B[k] <- v` (R37). -/
def State.setB (s : State) (k : BrNum) (v : BaseReg) : State := { s with br := s.br.set k.toNat v k.isLt }

/-! Storage -/

/-- The place of an absolute address in the order of the storage list: rising offset, then unit, then segment. Distinct
addresses have distinct keys (Laws/Memory.lean). Log entry 6. -/
def addrKey (a : AbsAddr) : Nat := a.off * 2 ^ 36 + a.upi.toNat * 2 ^ 18 + a.seg.toNat

/-- `a + n` (R62, R250). -/
def addrPlus (a : AbsAddr) (n : Nat) : AbsAddr := { a with off := a.off + n }

/-- What a storage word that is not listed reads as. Log entry 7. -/
def unlistedWord : Word := 0

/-- `Storage[a]` (R60). -/
def Memory.read : Memory → AbsAddr → Word
  | [], _ => unlistedWord
  | (b, w) :: m, a => if b = a then w else Memory.read m a

/-- `Storage[a] <- v`, keeping the canonical form (R63). -/
def Memory.write : Memory → AbsAddr → Word → Memory
  | [], a, v => if v = unlistedWord then [] else [(a, v)]
  | (b, w) :: m, a, v =>
    if addrKey a < addrKey b then (if v = unlistedWord then (b, w) :: m else (a, v) :: (b, w) :: m)
    else if a = b then (if v = unlistedWord then m else (a, v) :: m)
    else (b, w) :: Memory.write m a v

/-- `MemWrite`: the words of `ws` at `a`, `a + 1`, … (R63). -/
def Memory.writeWords : Memory → AbsAddr → List Word → Memory
  | m, _, [] => m
  | m, a, w :: ws => (Memory.write m a w).writeWords (addrPlus a 1) ws

/-- The canonical form: keys strictly rise and no listed word is what an unlisted word reads as. -/
def Memory.wf (m : Memory) : Bool :=
  decide (m.Pairwise fun p q => addrKey p.1 < addrKey q.1) && m.all fun p => decide (p.2 ≠ unlistedWord)

/-- An address lies in a range. -/
def rangeHolds (r : AddrRange) (a : AbsAddr) : Bool :=
  decide (r.upi = a.upi) && decide (r.seg = a.seg) && decide (r.first ≤ a.off) &&
    (match r.last with
     | none => true
     | some l => decide (a.off ≤ l))

/-- `StoragePresent(a)` (R61). -/
def State.present (s : State) (a : AbsAddr) : Bool :=
  if s.cfg.storage.ranges.any (rangeHolds · a) then !s.cfg.storage.others else s.cfg.storage.others

/-- Another execution context or the host may write this word during the run (R72). -/
def State.sharedWord (s : State) (a : AbsAddr) : Bool := s.cfg.shared.any (rangeHolds · a)

/-- The word at `a` as read number `i` of a command: a draw where another agent may write it (R72), else what this
context last stored (R71). DESIGN CHOICE: also where the word was shared in an earlier run (log entry 25). -/
def State.readWord (s : State) (i : Nat) (a : AbsAddr) : Word :=
  if s.sharedWord a then Config.foreignDraw (s.draws + i) else s.mem.read a

/-- The first of the `n` words from `a` on that does not exist (R61). Log entry 22. -/
def State.firstAbsent (s : State) (a : AbsAddr) (n : Nat) : Option AbsAddr :=
  ((List.range n).map (addrPlus a)).find? fun b => !s.present b

/-- `MemRead(a, n)`: the `n` words from `a` on, the word at `a` first (R62), or `NoStorage` (R61). -/
def memRead (s : State) (a : AbsAddr) (n : Nat) : Except Refusal (Vector Word n) :=
  match s.firstAbsent a n with
  | some b => .error (.noStorage b)
  | none => .ok (Vector.ofFn fun i => s.readWord i.val (addrPlus a i.val))

/-- The model's counter after a command that read `n` storage words (log entry 9). -/
def State.drew (s : State) (n : Nat) : State := { s with draws := s.draws + n }

/-- The most storage words one command reads: the eight of a Bank Descriptor (R62, R67, R240). -/
def maxReads : Nat := 8

/-- The counter moved past every number that the last command of a run can have read with. A command that ends in a fault
or a refusal leaves the state as it was, its counter included, so the host's next action starts here (R72, log entry
9). -/
def State.freshDraws (s : State) : State := s.drew maxReads

/-- `MemWrite(a, n, v)`: all the words or, where one does not exist, none (R61, R63, R331). -/
def memWrite (s : State) (a : AbsAddr) (ws : List Word) : Except Refusal State :=
  match s.firstAbsent a ws.length with
  | some b => .error (.noStorage b)
  | none => .ok { s with mem := s.mem.writeWords a ws }

end Sys2Proof.Machine
end

