-- ==== Sys2Proof/Machine/Operands.lean ====
section
/-! DEFINITION. Operand forms: register groups (R84), GRS names and designators (R21, R22, R312), designator-register
fields (R27), index-register layouts (R41), instruction-word fields (R90), partial-word fields (R92, R180 to R183). -/

namespace Sys2Proof.Machine

/-! Register groups and K values -/

/-- The group of `n` registers from `r` on ends at or before address 127 (R84). -/
def groupOK (r : GrsAddr) (n : Nat) : Bool := decide (r.toNat + n ≤ 128)

/-- A K value of EXTS (`N` = 36) or DEXTS (`N` = 72) is a legal field size (R85, R190, R191). -/
def fieldSizeOK (N : Nat) (n : BitVec 7) : Bool := decide (1 ≤ n.toNat) && decide (n.toNat ≤ N)

/-- The intent of a translation (R85, R246). -/
inductive Intent where
  | fetch
  | read
  | write
  deriving DecidableEq, Repr

/-- K[6:5] as an intent; 3 is illegal (R85). -/
def intentOf (k : BitVec 2) : Option Intent :=
  match k.toNat with
  | 0 => some .fetch
  | 1 => some .read
  | 2 => some .write
  | _ => none

/-! GRS names (R21) and designators (R24, R312) -/

/-- The classes of GRS names (R21). -/
inductive RegClass where
  | x
  | a
  | r
  | er
  | ex
  | ea
  deriving DecidableEq, Repr

/-- The GRS address of register 0 of a class (R21). -/
def regBase : RegClass → GrsAddr
  | .x => 0
  | .a => 12
  | .r => 64
  | .er => 80
  | .ex => 96
  | .ea => 108

/-- The GRS address of a name (R21). -/
def regAddr (c : RegClass) (n : BitVec 4) : GrsAddr := regBase c + n.setWidth 7

/-- The a-field A register (R312). -/
def designatorA (execSet : Bool) (n : BitVec 4) : GrsAddr := regAddr (if execSet then .ea else .a) n
/-- The x-field X register (R312). -/
def designatorX (execSet : Bool) (n : BitVec 4) : GrsAddr := regAddr (if execSet then .ex else .x) n
/-- The a-field R register (R312). -/
def designatorR (execSet : Bool) (n : BitVec 4) : GrsAddr := regAddr (if execSet then .er else .r) n

/-- GRSA's resolution of a designator by its kind; kind 3 is illegal (R85, R312). -/
def resolveDesignator (kind : BitVec 2) (execSet : Bool) (n : BitVec 4) : Option GrsAddr :=
  match kind.toNat with
  | 0 => some (designatorA execSet n)
  | 1 => some (designatorX execSet n)
  | 2 => some (designatorR execSet n)
  | _ => none

/-! Designator-register fields (R27) -/

/-- DR.fhip, faultHandlingInProgress (R27). -/
def State.fhip (s : State) : Bool := s.dr.getLsbD 29
/-- DR.x24, exec24BitIndexing (R27). -/
def State.x24 (s : State) : Bool := s.dr.getLsbD 28
/-- DR.basic, basicModeEnabled (R27). -/
def State.basic (s : State) : Bool := s.dr.getLsbD 19
/-- DR.execSet, execRegisterSetSelected (R27). -/
def State.execSet (s : State) : Bool := s.dr.getLsbD 18

/-- The named fields of DR (R27). Those the block does not use are stored only (R28). -/
inductive DrField where
  | activityLevelQueueMonitorEnabled
  | faultHandlingInProgress
  | exec24BitIndexing
  | quantumTimerEnabled
  | deferrableInterruptEnabled
  | processorPrivilege
  | basicModeEnabled
  | execRegisterSetSelected
  | carry
  | overflow
  | characteristicUnderflow
  | characteristicOverflow
  | divideCheck
  | basicModeBaseRegisterSelection
  | quarterWordModeEnabled
  deriving DecidableEq, Repr

/-- The lowest bit and the width of a field of DR: the parameter `DR_LAYOUT` (R9, R27). -/
def drPlace : DrField → Nat × Nat
  | .activityLevelQueueMonitorEnabled => (35, 1)
  | .faultHandlingInProgress => (29, 1)
  | .exec24BitIndexing => (28, 1)
  | .quantumTimerEnabled => (27, 1)
  | .deferrableInterruptEnabled => (26, 1)
  | .processorPrivilege => (20, 2)
  | .basicModeEnabled => (19, 1)
  | .execRegisterSetSelected => (18, 1)
  | .carry => (17, 1)
  | .overflow => (16, 1)
  | .characteristicUnderflow => (14, 1)
  | .characteristicOverflow => (13, 1)
  | .divideCheck => (12, 1)
  | .basicModeBaseRegisterSelection => (4, 1)
  | .quarterWordModeEnabled => (3, 1)

/-- A field of DR as a number (R27). -/
def State.drField (s : State) (f : DrField) : Nat := (zfield s.dr (drPlace f).1 (drPlace f).2).toNat

/-! Program-address register and access key fields (R30, R33, R96) -/

/-- `PAR.L` (R30). -/
def parL (par : Word) : BitVec 3 := par.extractLsb' 33 3

/-- `PAR.BDI` (R30). -/
def parBDI (par : Word) : BitVec 15 := par.extractLsb' 18 15

/-- `PAR.PC` (R30). -/
def parPC (par : Word) : BitVec 18 := par.extractLsb' 0 18

/-- The AccessInfo of an 18-bit lock or key: ring in bits 17 to 16, domain in bits 15 to 0 (R33, R96). -/
def accessInfo (v : BitVec 18) : AccessInfo := ⟨v.extractLsb' 16 2, v.extractLsb' 0 16⟩

/-! Index-register sub-fields (R41) -/

/-- The width of XM (R41). -/
def xmWidth : XLayout → Nat
  | .std => 18
  | .exec24 => 24

/-- The width of XI (R41). -/
def xiWidth : XLayout → Nat
  | .std => 18
  | .exec24 => 12

/-- XM, sign-extended to a Word (R41). -/
def xmSigned (v : Word) (lay : XLayout) : Word := sfield v 0 (xmWidth lay)

/-- XI, sign-extended to a Word (R41). -/
def xiSigned (v : Word) (lay : XLayout) : Word := sfield v (xmWidth lay) (xiWidth lay)

/-- `uval(XM)` (R41, R275). -/
def xmNat (v : Word) (lay : XLayout) : Nat := (zfield v 0 (xmWidth lay)).toNat

/-- The lowest `w` bits of a Word, the rest 0 (`trunc_w`, R12). -/
def truncTo (w : Nat) (v : Word) : Word := zfield v 0 w

/-- `v` with its XM replaced by the low bits of `m`, its XI untouched (R276, R310). -/
def withXM (v : Word) (lay : XLayout) (m : Word) : Word :=
  place 36 (v.extractLsb' (xmWidth lay) (xiWidth lay)) (xmWidth lay) ||| truncTo (xmWidth lay) m

/-! Instruction-word fields (R90, R91) -/

/-- f, "primary opcode" (R90). -/
def iwF (iw : Word) : BitVec 6 := iw.extractLsb' 30 6
/-- j, the sub-opcode or partial-word designator (R90). -/
def iwJ (iw : Word) : BitVec 4 := iw.extractLsb' 26 4
/-- a, a register or sub-sub-opcode (R90). -/
def iwA (iw : Word) : BitVec 4 := iw.extractLsb' 22 4
/-- x, the index register, 0 for none (R90, R262). -/
def iwX (iw : Word) : BitVec 4 := iw.extractLsb' 18 4
/-- h, the index-increment flag (R90, C15). -/
def iwH (iw : Word) : Bool := iw.getLsbD 17
/-- i, the indirect flag or base-register extension (R90, C15). -/
def iwI (iw : Word) : Bool := iw.getLsbD 16
/-- u, the displacement of basic mode, zero-extended (R90). -/
def iwU (iw : Word) : Word := zfield iw 0 16
/-- b, the base register selector of extended mode (R90). -/
def iwB (iw : Word) : BitVec 4 := iw.extractLsb' 12 4
/-- d, the displacement of extended mode, zero-extended (R90). -/
def iwD (iw : Word) : Word := zfield iw 0 12

/-! Partial-word fields (R92, R180 to R183) -/

/-- A partial-word field: its lowest bit, its width, and whether it is sign-extended (R92, R181). -/
structure PartialField where
  low : Nat
  len : Nat
  signed : Bool
  deriving DecidableEq, Repr

/-- `FieldOf(j, qw)` by the table of R92; U and XU (j = 14, 15) name no field (R181). -/
def fieldOf (j : BitVec 4) (qw : Bool) : Option PartialField :=
  match j.toNat with
  | 0 => some ⟨0, 36, false⟩
  | 1 => some ⟨0, 18, false⟩
  | 2 => some ⟨18, 18, false⟩
  | 3 => some ⟨0, 18, true⟩
  | 4 => some (if qw then ⟨18, 9, false⟩ else ⟨18, 18, true⟩)
  | 5 => some (if qw then ⟨0, 9, false⟩ else ⟨0, 12, true⟩)
  | 6 => some (if qw then ⟨9, 9, false⟩ else ⟨12, 12, true⟩)
  | 7 => some (if qw then ⟨27, 9, false⟩ else ⟨24, 12, true⟩)
  | 8 => some ⟨0, 6, false⟩
  | 9 => some ⟨6, 6, false⟩
  | 10 => some ⟨12, 6, false⟩
  | 11 => some ⟨18, 6, false⟩
  | 12 => some ⟨24, 6, false⟩
  | 13 => some ⟨30, 6, false⟩
  | _ => none

/-- `Extract(v, j, qw)` (R182). -/
def extractField (v : Word) (j : BitVec 4) (qw : Bool) : Word :=
  match fieldOf j qw with
  | some f => if f.signed then sfield v f.low f.len else zfield v f.low f.len
  | none => if j = 14 then zfield v 0 18 else sfield v 0 18

/-- The bits of a field, as a mask. -/
def fieldMask (f : PartialField) : Word := ((BitVec.allOnes f.len).setWidth 36) <<< f.low

/-- `Insert(w, j, qw, f)`; U and XU have no insertion (R183). -/
def insertField (w : Word) (j : BitVec 4) (qw : Bool) (f : Word) : Option Word :=
  match fieldOf j qw with
  | some p => some ((w &&& ~~~(fieldMask p)) ||| ((f <<< p.low) &&& fieldMask p))
  | none => none

/-- `ExtendSign_N(v, n)` for 1 ≤ n ≤ N (R180). -/
def extendSign {N : Nat} (v : BitVec N) (n : Nat) : BitVec N :=
  if v.getLsbD (n - 1) then v ||| ~~~((BitVec.allOnes n).setWidth N) else v

end Sys2Proof.Machine
end

