-- ==== Sys2Proof/Machine/Flags.lean ====
section
/-! DEFINITION. The flag computations and the status latch (R35 of 10_state.md; R112, R113, R117, R118 of
41_arithmetic.md; R308, R309 of 46_register_file.md). No other command writes a flag (R45, R157, R189). -/

namespace Sys2Proof.Machine

/-- Carry of `a + b = r` by the sign formula (R111, R112). -/
def addCarry {n : Nat} (a b r : BitVec n) : Bool := (a.msb && b.msb) || ((a.msb != b.msb) && !r.msb)

/-- Overflow of `a + b = r` (R111, R113). -/
def addOverflow {n : Nat} (a b r : BitVec n) : Bool := (a.msb == b.msb) && (r.msb != a.msb)

/-- An exact result does not fit `n` bits (R117, R118). -/
def outOfRange (n : Nat) (i : Int) : Bool := decide ((i.natAbs : Int) > maxMag n)

/-- `STAT.c <- c; STAT.o <- o; STAT.d <- d`, STAT.u unchanged (R35). -/
def State.setFlags (s : State) (c o d : Bool) : State := s.setStat { s.stat with c := c, o := o, d := d }

/-- `STAT.u <- u`, the other bits unchanged (R264). -/
def State.setUnresolved (s : State) (u : Bool) : State := s.setStat { s.stat with u := u }

/-- `STAT.c·2^3 + STAT.o·2^2 + STAT.d·2^1 + STAT.u` (R308). -/
def statWord (t : Stat) : Word :=
  place 36 (BitVec.ofBool t.c) 3 ||| place 36 (BitVec.ofBool t.o) 2 ||| place 36 (BitVec.ofBool t.d) 1 |||
    place 36 (BitVec.ofBool t.u) 0

/-- DR with carry (bit 17), overflow (bit 16) and divideCheck (bit 12) copied from STAT (R27, R309). -/
def drWithFlags (dr : Word) (t : Stat) : Word := withBit (withBit (withBit dr 17 t.c) 16 t.o) 12 t.d

end Sys2Proof.Machine
end

