-- ==== Sys2Proof/Machine/Numeric.lean ====
section
/-! DEFINITION. The Numeric Kernel: ones'-complement arithmetic (R110 to R119 of 41_arithmetic.md) and shifts (R150 to
R157 of 42_logical_shift.md), for N = 36 and N = 72. -/

namespace Sys2Proof.Machine

/-- The result of `Add_N` (R111, R114): exact where it fits, the end-around-carry sum where it does not. -/
def addN {n : Nat} (a b : BitVec n) : BitVec n :=
  if a = negZero n ∧ b = negZero n then negZero n
  else if outOfRange n (val a + val b) then
    (let t := a.toNat + b.toNat
     BitVec.ofNat n (if t > 2 ^ n - 1 then t - (2 ^ n - 1) else t))
  else oc n (val a + val b)

/-- `Neg_N` (R116). -/
def negN {n : Nat} (v : BitVec n) : BitVec n := ~~~v

/-- The product of the values of two Words (R117). -/
def product (a b : Word) : Int := val a * val b

/-- The result of `Mul(a, b, 72)` (R117). -/
def mulD (a b : Word) : DWord := oc 72 (product a b)

/-- The result of `Mul(a, b, 36)`: the low 36 bits of the 72-bit pattern (R117). -/
def mulS (a b : Word) : Word := lo (mulD a b)

/-- The quotient and remainder of `Div`, and whether the quotient overflows 36 bits (R118). -/
structure DivOut where
  q : Word
  rm : Word
  dovf : Bool
  deriving DecidableEq, Repr

/-- `Div(dd, Nd, dv)`; `none` is the divide check (R118). -/
def divN {n : Nat} (dd : BitVec n) (dv : Word) : Option DivOut :=
  if val dv = 0 then none
  else
    let q := (val dd).tdiv (val dv)
    some ⟨lo (oc 72 q), oc 36 (val dd - q * val dv), outOfRange 36 q⟩

/-- `oc_36(Cmp_N(a, b))` (R119, R130). -/
def cmpN {n : Nat} (a b : BitVec n) : Word :=
  if val a < val b then oc 36 (-1) else if val a = val b then oc 36 0 else oc 36 1

/-! Shifts -/

/-- The kinds of shift (R151). -/
inductive ShiftKind where
  | circular
  | logical
  | algebraic
  deriving DecidableEq, Repr

/-- `L_circ_N` (R152). -/
def circL {N : Nat} (v : BitVec N) (n : Nat) : BitVec N := (v <<< (n % N)) ||| (v >>> (N - n % N))

/-- `R_circ_N` (R152). -/
def circR {N : Nat} (v : BitVec N) (n : Nat) : BitVec N := (v >>> (n % N)) ||| (v <<< (N - n % N))

/-- `L_log_N` (R153). -/
def logL {N : Nat} (v : BitVec N) (n : Nat) : BitVec N := if n ≥ N then 0 else v <<< n

/-- `R_log_N` (R153). -/
def logR {N : Nat} (v : BitVec N) (n : Nat) : BitVec N := if n ≥ N then 0 else v >>> n

/-- `R_alg_N` (R154). -/
def algR {N : Nat} (v : BitVec N) (n : Nat) : BitVec N :=
  let m := min n N
  (v >>> m) ||| (if v.msb then ~~~((BitVec.allOnes N) >>> m) else 0)

/-- `L_alg_N` (R155): the sign bit stays, the vacated bits take the fill. -/
def algL {N : Nat} (fill : AlgLeftFill) (v : BitVec N) (n : Nat) : BitVec N :=
  let f := decide (fill = .sign) && v.msb
  let low : BitVec (N - 1) :=
    if n ≥ N - 1 then (if f then BitVec.allOnes (N - 1) else 0)
    else ((v.setWidth (N - 1)) <<< n) ||| (if f then ~~~(BitVec.allOnes (N - 1) <<< n) else 0)
  low.setWidth N ||| (if v.msb then BitVec.twoPow N (N - 1) else 0)

/-- `L_kind_N` (R151). -/
def leftBy {N : Nat} (fill : AlgLeftFill) (kind : ShiftKind) (v : BitVec N) (n : Nat) : BitVec N :=
  match kind with
  | .circular => circL v n
  | .logical => logL v n
  | .algebraic => algL fill v n

/-- `R_kind_N` (R151). -/
def rightBy {N : Nat} (kind : ShiftKind) (v : BitVec N) (n : Nat) : BitVec N :=
  match kind with
  | .circular => circR v n
  | .logical => logR v n
  | .algebraic => algR v n

/-- `ShiftL(kind, N, v, c)`: a negative count shifts right (R151). -/
def shiftL {N : Nat} (fill : AlgLeftFill) (kind : ShiftKind) (v : BitVec N) (c : Int) : BitVec N :=
  if 0 ≤ c then leftBy fill kind v c.natAbs else rightBy kind v c.natAbs

/-- `ShiftR(kind, N, v, c)`: a negative count shifts left (R151). -/
def shiftR {N : Nat} (fill : AlgLeftFill) (kind : ShiftKind) (v : BitVec N) (c : Int) : BitVec N :=
  if 0 ≤ c then rightBy kind v c.natAbs else leftBy fill kind v c.natAbs

end Sys2Proof.Machine
end

