-- ==== Sys2Proof/Machine/RegisterFile.lean ====
section
/-! DEFINITION. The register-file commands (R300 to R312 of 46_register_file.md). None writes STAT. -/

namespace Sys2Proof.Machine

/-- MOV (R300). -/
def execMov (rd ra : GrsAddr) (s : State) : Result := done (s.setX rd (s.x ra))

/-- LDI (R301). -/
def execLdi (rd : GrsAddr) (lit : Word) (s : State) : Result := done (s.setX rd lit)

/-- RDDR (R302). -/
def execRddr (rd : GrsAddr) (s : State) : Result := done (s.setX rd s.dr)

/-- WRDR: all 36 bits (R303). -/
def execWrdr (ra : GrsAddr) (s : State) : Result := done (s.setDr (s.x ra))

/-- RDPAR (R304). -/
def execRdpar (rd : GrsAddr) (s : State) : Result := done (s.setX rd s.par)

/-- WRPAR (R305). -/
def execWrpar (ra : GrsAddr) (s : State) : Result := done (s.setPar (s.x ra))

/-- RDKEY (R306). -/
def execRdkey (rd : GrsAddr) (s : State) : Result := done (s.setX rd (s.key.setWidth 36))

/-- WRKEY: bits 35 to 18 of the source are ignored (R307). -/
def execWrkey (ra : GrsAddr) (s : State) : Result := done (s.setKey ((s.x ra).extractLsb' 0 18))

/-- RDSTAT (R308). -/
def execRdstat (rd : GrsAddr) (s : State) : Result := done (s.setX rd (statWord s.stat))

/-- UPDF (R309). -/
def execUpdf (s : State) : Result := done (s.setDr (drWithFlags s.dr s.stat))

/-- `XIncrement(v, lay)` (R310). -/
def xIncrement (v : Word) (lay : XLayout) : Word := withXM v lay (addN (xmSigned v lay) (xiSigned v lay))

/-- `XDecrement(v, lay)` (R311). -/
def xDecrement (v : Word) (lay : XLayout) : Word := withXM v lay (addN (xmSigned v lay) (negN (xiSigned v lay)))

/-- XINC (R310). -/
def execXinc (rd : GrsAddr) (lay : XLayout) (s : State) : Result := done (s.setX rd (xIncrement (s.x rd) lay))

/-- XDEC (R311). -/
def execXdec (rd : GrsAddr) (lay : XLayout) (s : State) : Result := done (s.setX rd (xDecrement (s.x rd) lay))

/-- GRSA (R312). -/
def execGrsa (rd : GrsAddr) (kind : BitVec 2) (n : BitVec 4) (s : State) : Result :=
  match resolveDesignator kind s.execSet n with
  | some r => done (s.setX rd (r.setWidth 36))
  | none => badCommand s

end Sys2Proof.Machine
end

