-- ==== Sys2Proof/Machine/Protection.lean ====
section
/-! DEFINITION. The Addressing and Protection Layer: Bank Descriptors, base-register construction, packets, the limit and
permission checks, translation, operand relative addresses (R95 to R105 of 30_encoding.md; R220 to R252, R262, R263 of
44_translation.md). -/

namespace Sys2Proof.Machine

/-! Absolute addresses in two words (R101) -/

/-- `(wa, wb)` as an absolute address (R101). -/
def decodeAbs (wa wb : Word) : AbsAddr := ⟨wa.extractLsb' 18 18, wa.extractLsb' 0 18, wb.toNat⟩

/-- `upi·2^18 + seg` (R101). -/
def absWordA (a : AbsAddr) : Word := place 36 a.upi 18 ||| place 36 a.seg 0

/-- `off mod 2^36` (R101). -/
def absWordB (a : AbsAddr) : Word := BitVec.ofNat 36 a.off

/-! Bank Descriptors (R95 to R100, R220 to R226) -/

/-- The record of a Bank Descriptor (R220). -/
structure BankDescriptor where
  gap : AccessPerms
  sap : AccessPerms
  type : BitVec 4
  g : Bool
  s : Bool
  u : Bool
  lock : AccessInfo
  ll : BitVec 9
  ul : BitVec 27
  abs : AbsAddr
  ext : Vector Word 4
  deriving DecidableEq, Repr

/-- The three permission bits from bit `top` down (R97, R102). -/
def permsAt (w : Word) (top : Nat) : AccessPerms := ⟨w.getLsbD top, w.getLsbD (top - 1), w.getLsbD (top - 2)⟩

/-- Three permission bits as a field (R97). -/
def permBits (p : AccessPerms) : BitVec 3 :=
  place 3 (BitVec.ofBool p.enter) 2 ||| place 3 (BitVec.ofBool p.read) 1 ||| place 3 (BitVec.ofBool p.write) 0

/-- `DecodeBD(w0, …, w7)` (R220). The reserved bits of w0 are ignored (R224). -/
def decodeBD (w : Vector Word 8) : BankDescriptor where
  gap := permsAt w[0] 35
  sap := permsAt w[0] 32
  type := w[0].extractLsb' 24 4
  g := w[0].getLsbD 23
  s := w[0].getLsbD 22
  u := w[0].getLsbD 21
  lock := accessInfo (w[0].extractLsb' 0 18)
  ll := w[1].extractLsb' 27 9
  ul := w[1].extractLsb' 0 27
  abs := decodeAbs w[2] w[3]
  ext := #v[w[4], w[5], w[6], w[7]]

/-- The permission bits, the large flag and the access lock of a first word: the positions Bank Descriptors and packets
share (R97, R102). -/
def accessWord (gap sap : AccessPerms) (lock : AccessInfo) (large : Bool) : Word :=
  place 36 (permBits gap) 33 ||| place 36 (permBits sap) 30 ||| place 36 (BitVec.ofBool large) 22 |||
    place 36 lock.ring 16 ||| place 36 lock.domain 0

/-- The limits word: LL above UL (R98, R103). -/
def limitsWord (ll : BitVec 9) (ul : BitVec 27) : Word := place 36 ll 27 ||| place 36 ul 0

/-- `EncodeBD(r)`, reserved bits 0 (R222). -/
def encodeBD (r : BankDescriptor) : Vector Word 8 :=
  #v[accessWord r.gap r.sap r.lock r.s ||| place 36 r.type 24 ||| place 36 (BitVec.ofBool r.g) 23 |||
       place 36 (BitVec.ofBool r.u) 21,
     limitsWord r.ll r.ul, absWordA r.abs, absWordB r.abs, r.ext[0], r.ext[1], r.ext[2], r.ext[3]]

/-- The unit of a lower limit, by the large-bank flag (R221). -/
def lowerUnit (large : Bool) : Nat := if large then 32768 else 512

/-- `NormLower` (R221). -/
def normLower (large : Bool) (ll : BitVec 9) : Nat := ll.toNat * lowerUnit large

/-- `NormUpper` (R221). -/
def normUpper (large : Bool) (ul : BitVec 27) : Nat := if large then ul.toNat * 64 + 63 else ul.toNat

/-! Base registers (R230 to R236) -/

/-- `BaseFromBD(bd, offset)` (R230). The upper limit is negative exactly if the offset exceeds the bank's. -/
def baseFromBD (bd : BankDescriptor) (offset : Nat) : BaseReg :=
  let nU := normUpper bd.s bd.ul
  let lower := normLower bd.s bd.ll - offset
  let upper := nU - offset
  if nU < offset ∨ upper < lower then BaseReg.canonicalVoid
  else
    { void := false, base := addrPlus bd.abs offset, large := bd.s, lower := lower, upper := upper,
      lock := bd.lock, gap := bd.gap, sap := bd.sap }

/-- `DecodePacket(p0, p1, p2, p3)` (R231). -/
def decodePacket (p0 p1 p2 p3 : Word) : BaseReg :=
  let large := p0.getLsbD 22
  let lower := normLower large (p1.extractLsb' 27 9)
  let upper := normUpper large (p1.extractLsb' 0 27)
  if p0.getLsbD 20 ∨ upper < lower then BaseReg.canonicalVoid
  else
    { void := false, base := decodeAbs p2 p3, large := large, lower := lower, upper := upper,
      lock := accessInfo (p0.extractLsb' 0 18), gap := permsAt p0 35, sap := permsAt p0 32 }

/-- `EncodePacket(B)` (R232). -/
def encodePacket (b : BaseReg) : List Word :=
  if b.void then [0o000004000000, 0, 0, 0]
  else
    [accessWord b.gap b.sap b.lock b.large,
     limitsWord (BitVec.ofNat 9 (b.lower / lowerUnit b.large))
       (BitVec.ofNat 27 (if b.large then b.upper / 64 else b.upper)),
     absWordA b.base, absWordB b.base]

/-! Checks and translation (R245 to R252) -/

/-- `SelectPerm(B, key)` (R245): a smaller ring is more privileged; at equal rings only the domain selects SAP. -/
def selectPerm (b : BaseReg) (key : AccessInfo) : AccessPerms :=
  if key.ring.toNat < b.lock.ring.toNat ∨ key.domain = b.lock.domain then b.sap else b.gap

/-- `PermOK(P, intent)`: a fetch needs the read bit (R246). -/
def permOK (p : AccessPerms) : Intent → Bool
  | .write => p.write
  | .read => p.read
  | .fetch => p.read

/-- `LimitsOK(B, rel, n)` for n ≥ 1 (R247). -/
def limitsOK (b : BaseReg) (rel n : Nat) : Bool :=
  !b.void && decide (b.lower ≤ rel) && decide (rel + n - 1 ≤ b.upper)

/-- The limits violation of a relative address (R249). -/
def limitsViolation (fetch : Bool) (k : BrNum) (rel : Nat) : Fault := .refViol .limits fetch k (BitVec.ofNat 36 rel)

/-- `Translate(k, rel, n, intent)`: limits, then permission (R248, R252). -/
def translate (s : State) (k : BrNum) (rel n : Nat) (intent : Intent) : Except Fault AbsAddr :=
  let fetch := decide (intent = .fetch)
  if !limitsOK (s.b k) rel n then .error (limitsViolation fetch k rel)
  else if !permOK (selectPerm (s.b k) (accessInfo s.key)) intent then
    .error (.refViol (if intent = .write then .write else .read) fetch k (BitVec.ofNat 36 rel))
  else .ok (addrPlus (s.b k).base rel)

/-! Bank Descriptor Tables (R105, R240) -/

/-- L of a level/BDI word (R105). -/
def wordL (v : Word) : BitVec 3 := v.extractLsb' 33 3

/-- BDI of a level/BDI word (R105). -/
def wordBDI (v : Word) : BitVec 15 := v.extractLsb' 18 15

/-- `InvalidLBDI(L, BDI)` (R9, R240). -/
def invalidLBDI (l : BitVec 3) (bdi : BitVec 15) : Bool := decide (l = 0) && decide (bdi.toNat < 32)

/-- `AddrExc`, or `TermAddrExc` when DR.fhip = 1 (R240). -/
def addressingFault (s : State) (kind : AddrKind) (l : BitVec 3) (bdi : BitVec 15) : Fault :=
  if s.fhip then .termAddrExc kind l bdi else .addrExc kind l bdi

/-! Operand relative-address formation (R262, R263) -/

/-- The result of `FormRel` (R263): `index` is the index register's GRS address, if any. -/
structure FormedRel where
  rel : Word
  base : Word
  index : Option GrsAddr
  lay : XLayout
  incr : Bool
  unresolved : Bool
  deriving DecidableEq, Repr

/-- The layout that address formation uses: 24-bit only in extended mode with DR.x24 and DR.execSet (R263). -/
def formLayout (s : State) : XLayout := if !s.basic && (s.x24 && s.execSet) then .exec24 else .std

/-- The displacement of an instruction word by mode (R91, R263). -/
def formDisp (s : State) (iw : Word) : Word := if s.basic then iwU iw else iwD iw

/-- The base-register number of an instruction word in extended mode, `b + 16·i`; +0 in basic mode (R263). -/
def formBase (s : State) (iw : Word) : Word :=
  if s.basic then 0 else place 36 (BitVec.ofBool (iwI iw)) 4 ||| place 36 (iwB iw) 0

/-- The index register an instruction word names; x = 0 names none (R262). -/
def formIndex (s : State) (iw : Word) : Option GrsAddr :=
  if iwX iw = 0 then none else some (designatorX s.execSet (iwX iw))

/-- The relative address: the displacement, plus the index register's modifier, at the layout's width (R263). -/
def formRelWord (s : State) (iw : Word) : Word :=
  match formIndex s iw with
  | none => truncTo (xmWidth (formLayout s)) (formDisp s iw)
  | some xa => truncTo (xmWidth (formLayout s)) (addN (formDisp s iw) (xmSigned (s.x xa) (formLayout s)))

/-- `FormRel(iw)` (R263). -/
def formRel (s : State) (iw : Word) : FormedRel where
  rel := formRelWord s iw
  base := formBase s iw
  index := formIndex s iw
  lay := formLayout s
  incr := (formIndex s iw).isSome && iwH iw
  unresolved := s.basic && iwI iw

end Sys2Proof.Machine
end

