-- ==== Sys2Proof/Machine/Translation.lean ====
section
/-! DEFINITION. The translation commands (R253 to R264 of 44_translation.md). None writes a flag but EA. -/

namespace Sys2Proof.Machine

/-- The end of XLT and XLTN: translate, and deliver the absolute address in the pair at `rd` (R253, R254). -/
def translateInto (rd : GrsAddr) (k : BrNum) (rel n : Nat) (intent : Intent) (s : State) : Result :=
  match translate s k rel n intent with
  | .error f => raise f
  | .ok a => done (s.setPair rd (dw (absWordA a) (absWordB a)))

/-- XLT (R253). -/
def execXlt (rd ra : GrsAddr) (k : BrNum) (intent : BitVec 2) (s : State) : Result :=
  match intentOf intent with
  | none => badCommand s
  | some i => if groupOK rd 2 then translateInto rd k (s.x ra).toNat 1 i s else badCommand s

/-- XLTN; a count of 0 is `BadCommand` (R254). -/
def execXltn (rd ra rb : GrsAddr) (k : BrNum) (intent : BitVec 2) (s : State) : Result :=
  match intentOf intent with
  | none => badCommand s
  | some i =>
    if groupOK rd 2 && decide ((s.x rb).toNat ≠ 0) then translateInto rd k (s.x ra).toNat (s.x rb).toNat i s
    else badCommand s

/-- LD (R255). -/
def execLd (rd ra : GrsAddr) (k : BrNum) (s : State) : Result :=
  match translate s k (s.x ra).toNat 1 .read with
  | .error f => raise f
  | .ok a =>
    match memRead s a 1 with
    | .error r => refuse r
    | .ok w => done ((s.drew 1).setX rd w[0])

/-- The end of ST and DST: translate for writing, then store all the words or none (R256, R258, R331). -/
def storeAt (k : BrNum) (rel : Nat) (ws : List Word) (s : State) : Result :=
  match translate s k rel ws.length .write with
  | .error f => raise f
  | .ok a =>
    match memWrite s a ws with
    | .error r => refuse r
    | .ok t => done t

/-- ST (R256). -/
def execSt (ra rb : GrsAddr) (k : BrNum) (s : State) : Result := storeAt k (s.x ra).toNat [s.x rb] s

/-- DLD (R257). -/
def execDld (rd ra : GrsAddr) (k : BrNum) (s : State) : Result :=
  if groupOK rd 2 then
    match translate s k (s.x ra).toNat 2 .read with
    | .error f => raise f
    | .ok a =>
      match memRead s a 2 with
      | .error r => refuse r
      | .ok w => done ((s.drew 2).setPair rd (dw w[0] w[1]))
  else badCommand s

/-- DST (R258). -/
def execDst (ra rb : GrsAddr) (k : BrNum) (s : State) : Result :=
  if groupOK rb 2 then storeAt k (s.x ra).toNat [s.x rb, s.x (grsPlus rb 1)] s else badCommand s

/-- LDBR (R259). -/
def execLdbr (ra : GrsAddr) (k : BrNum) (s : State) : Result :=
  if groupOK ra 4 then
    done (s.setB k (decodePacket (s.x ra) (s.x (grsPlus ra 1)) (s.x (grsPlus ra 2)) (s.x (grsPlus ra 3))))
  else badCommand s

/-- STBR (R260). -/
def execStbr (rd : GrsAddr) (k : BrNum) (s : State) : Result :=
  if groupOK rd 4 then done (s.setGroup rd (encodePacket (s.b k))) else badCommand s

/-- The address of the Bank Descriptor of (L, BDI): 8·BDI in the bank of B[16 + L] (R240). -/
def descriptorAddr (s : State) (l : BitVec 3) (bdi : BitVec 15) : AbsAddr :=
  addrPlus (s.b (bdtBr l)).base (8 * bdi.toNat)

/-- BASEBD (R261). The table register's limits are checked, not its permissions (R241). -/
def execBasebd (ra rb : GrsAddr) (k : BrNum) (s : State) : Result :=
  let l := wordL (s.x ra)
  let bdi := wordBDI (s.x ra)
  if invalidLBDI l bdi then raise (addressingFault s .invalidLBDI l bdi)
  else if !limitsOK (s.b (bdtBr l)) (8 * bdi.toNat) 8 then raise (addressingFault s .outsideTable l bdi)
  else
    match memRead s (descriptorAddr s l bdi) 8 with
    | .error r => refuse r
    | .ok w =>
      if (decodeBD w).g then raise (addressingFault s .generalFault l bdi)
      else done ((s.drew 8).setB k (baseFromBD (decodeBD w) (s.x rb).toNat))

/-- EA: the h-increment first, then the pair at `rd`, whose write remains where they overlap (R264). -/
def execEa (rd ra : GrsAddr) (s : State) : Result :=
  if groupOK rd 2 then
    let f := formRel s (s.x ra)
    let t := match f.index with
      | some xa => if f.incr then s.setX xa (xIncrement (s.x xa) f.lay) else s
      | none => s
    done ((t.setPair rd (dw f.rel f.base)).setUnresolved f.unresolved)
  else badCommand s

end Sys2Proof.Machine
end

