-- ==== Sys2Proof/Machine/DispatchRcs.lean ====
section
/-! DEFINITION. The Instruction Dispatch Engine: the three-level lookup, the Return Control Stack, the interrupt vector
read (R270 to R285 of 45_dispatch_rcs.md). -/

namespace Sys2Proof.Machine

/-! Dispatch -/

/-- `T1[m]`, the tree of the mode: DR.basic selects it (R270, R272). -/
def modeTable (s : State) : Vector Slot1 64 := if s.basic then s.cfg.dispatch.basic else s.cfg.dispatch.extended

/-- `Lookup(iw, m)`; `none` is an unpopulated slot (R271). -/
def lookup (t1 : Vector Slot1 64) (iw : Word) : Option HandlerId :=
  match t1[(iwF iw).toNat]'(iwF iw).isLt with
  | .none => none
  | .handler h => some h
  | .sub t2 =>
    match t2[(iwJ iw).toNat]'(iwJ iw).isLt with
    | .none => none
    | .handler h => some h
    | .sub t3 =>
      match t3[(iwA iw).toNat]'(iwA iw).isLt with
      | .none => none
      | .handler h => some h

/-- `QCharge(h)`: the handler's override, else the default (R274). -/
def chargeOf (q : QCharge) (h : HandlerId) : Charge :=
  match q.overrides.find? (fun p => decide (p.1 = h)) with
  | some p => p.2
  | none => q.standard

/-- DISP: the handler id and its charge (R280). -/
def execDisp (rd ra : GrsAddr) (s : State) : Result :=
  if groupOK rd 2 then
    match lookup (modeTable s) (s.x ra) with
    | none => raise (.invalidInstruction (s.x ra))
    | some h => done (s.setPair rd (dw (oc 36 h.val) (oc 36 (chargeOf s.cfg.qCharge h).val)))
  else badCommand s

/-! Return Control Stack -/

/-- `RCS_BR` (R9, R275). -/
def rcsBr : BrNum := 25

/-- `RCS_XR`, EX0 (R9, R275). -/
def rcsXr : GrsAddr := 96

/-- The frame size in words (R9, R275). -/
def frameWords : Nat := 2

/-- The layout of the RCS index register (R275). -/
def rcsLayout (s : State) : XLayout := if s.x24 then .exec24 else .std

/-- The frame pointer (R275). -/
def framePointer (s : State) : Nat := xmNat (s.x rcsXr) (rcsLayout s)

/-- The state with the frame pointer replaced, XI untouched (R276, R278). -/
def State.setFramePointer (s : State) (fp : Nat) : State :=
  s.setX rcsXr (withXM (s.x rcsXr) (rcsLayout s) (BitVec.ofNat 36 fp))

/-- `PushCheck()`: the new frame pointer, or an overflow with the attempted one (R276, R279). -/
def pushCheck (s : State) : Except Fault Nat :=
  let new : Int := (framePointer s : Int) - frameWords
  if (s.b rcsBr).void ∨ new < (s.b rcsBr).lower then .error (.rcsFault .overflow (oc 36 new)) else .ok new.toNat

/-- `PushFrame(f0, f1)`: limits only, not permissions (R241, R277). -/
def pushFrame (f0 f1 : Word) (s : State) : Result :=
  let fp := framePointer s
  if !limitsOK (s.b rcsBr) fp 2 then raise (limitsViolation false rcsBr fp)
  else
    match memWrite s (addrPlus (s.b rcsBr).base fp) [f0, f1] with
    | .error r => refuse r
    | .ok t => done t

/-- The checks of `Pop()`: underflow, then the lower limit (R278). -/
def popCheck (s : State) : Except Fault Nat :=
  let fp := framePointer s
  if (s.b rcsBr).void ∨ fp + frameWords > (s.b rcsBr).upper + 1 then
    .error (.rcsFault .underflow (oc 36 ((fp + frameWords : Nat) : Int)))
  else if fp < (s.b rcsBr).lower then .error (limitsViolation false rcsBr fp)
  else .ok fp

/-- RCSCHK: the frame pointer moves, then `rd` is written (R281). -/
def execRcschk (rd : GrsAddr) (s : State) : Result :=
  match pushCheck s with
  | .error f => raise f
  | .ok new => done ((s.setFramePointer new).setX rd (BitVec.ofNat 36 new))

/-- RCSWR: a raw frame (R282). -/
def execRcswr (ra : GrsAddr) (s : State) : Result :=
  if groupOK ra 2 then pushFrame (s.x ra) (s.x (grsPlus ra 1)) s else badCommand s

/-- Word 0 of a synthesized frame: the re-entry program address, `PC + 1` modulo 2^18 (R31, R104). -/
def reentryWord (par : Word) : Word := place 36 (par.extractLsb' 18 18) 18 ||| place 36 (parPC par + 1) 0

/-- Word 1 of a synthesized frame: caller tag, DR[23:18], KEY (R104). -/
def stateWord (tag : BitVec 2) (dr : Word) (key : BitVec 18) : Word :=
  place 36 tag 34 ||| place 36 (dr.extractLsb' 18 6) 24 ||| place 36 key 0

/-- RCSWRS: a synthesized frame (R283). -/
def execRcswrs (tag : BitVec 2) (s : State) : Result := pushFrame (reentryWord s.par) (stateWord tag s.dr s.key) s

/-- RCSPOP: the frame pointer moves, then the pair at `rd` is written (R278, R284). -/
def execRcspop (rd : GrsAddr) (s : State) : Result :=
  if groupOK rd 2 then
    match popCheck s with
    | .error f => raise f
    | .ok fp =>
      match memRead s (addrPlus (s.b rcsBr).base fp) 2 with
      | .error r => refuse r
      | .ok w => done (((s.drew 2).setFramePointer (fp + frameWords)).setPair rd (dw w[0] w[1]))
  else badCommand s

/-! Interrupt vector area -/

/-- `VEC_BR` (R9, R70). -/
def vecBr : BrNum := 16

/-- VECRD: entry `c` of the vector area, limits checked only (R285). -/
def execVecrd (rd : GrsAddr) (c : BitVec 6) (s : State) : Result :=
  if !limitsOK (s.b vecBr) c.toNat 1 then raise (limitsViolation false vecBr c.toNat)
  else
    match memRead s (addrPlus (s.b vecBr).base c.toNat) 1 with
    | .error r => refuse r
    | .ok w => done ((s.drew 1).setX rd w[0])

end Sys2Proof.Machine
end

