-- ==== Sys2Proof/Machine/Characters.lean ====
section
/-! DEFINITION. Character packing (R184, R185, R198 of 43_field_char.md) and the host-level string functions that have no
command (R186 to R188). A display string is the list of its characters. -/

namespace Sys2Proof.Machine

/-- The ASCII space, the pad of `PackA` (R184). -/
def asciiPad : BitVec 9 := 0o040

/-- The Fieldata space, the pad of `PackF` (R185). -/
def fieldataPad : BitVec 6 := 0o05

/-- `PackA`: four 9-bit codes, the first in Q1; pads for missing codes, codes past the fourth dropped (R184). -/
def packA (cs : List (BitVec 9)) : Word :=
  place 36 (cs.getD 0 asciiPad) 27 ||| place 36 (cs.getD 1 asciiPad) 18 ||| place 36 (cs.getD 2 asciiPad) 9 |||
    place 36 (cs.getD 3 asciiPad) 0

/-- `UnpackA` (R184). -/
def unpackA (v : Word) : List (BitVec 9) :=
  [v.extractLsb' 27 9, v.extractLsb' 18 9, v.extractLsb' 9 9, v.extractLsb' 0 9]

/-- `PackF`: six 6-bit codes, the first in S1 (R185). -/
def packF (cs : List (BitVec 6)) : Word :=
  place 36 (cs.getD 0 fieldataPad) 30 ||| place 36 (cs.getD 1 fieldataPad) 24 ||| place 36 (cs.getD 2 fieldataPad) 18 |||
    place 36 (cs.getD 3 fieldataPad) 12 ||| place 36 (cs.getD 4 fieldataPad) 6 ||| place 36 (cs.getD 5 fieldataPad) 0

/-- `UnpackF` (R185). -/
def unpackF (v : Word) : List (BitVec 6) :=
  [v.extractLsb' 30 6, v.extractLsb' 24 6, v.extractLsb' 18 6, v.extractLsb' 12 6, v.extractLsb' 6 6, v.extractLsb' 0 6]

/-- `FD_TABLE`: the display character of each Fieldata code, in code order (R198). -/
def fieldataTable : List Char :=
  ['@', '[', ']', '#', '^', ' ', 'A', 'B', 'C', 'D', 'E', 'F', 'G', 'H', 'I', 'J',
   'K', 'L', 'M', 'N', 'O', 'P', 'Q', 'R', 'S', 'T', 'U', 'V', 'W', 'X', 'Y', 'Z',
   ')', '-', '+', '<', '=', '>', '&', '$', '*', '(', '%', ':', '?', '!', ',', '\\',
   '0', '1', '2', '3', '4', '5', '6', '7', '8', '9', '\'', ';', '/', '.', '"', '_']

/-- `FD_UNMAPPED`, the code of a character not in the table (R9, R187). -/
def fieldataUnmapped : BitVec 6 := 0o05

/-- The Fieldata code of a character; there is no case folding (R187). -/
def fieldataCode (c : Char) : BitVec 6 :=
  match fieldataTable.findIdx? (· = c) with
  | some i => BitVec.ofNat 6 i
  | none => fieldataUnmapped

/-- The display character of a Fieldata code (R187, R198). -/
def fieldataChar (c : BitVec 6) : Char := fieldataTable.getD c.toNat ' '

/-- `W` words of codes, each word packed by `pack` from its own `n` codes (R186, R187). -/
def packWords {w : Nat} (pack : List (BitVec w) → Word) (n : Nat) : Nat → List (BitVec w) → List Word
  | 0, _ => []
  | W + 1, cs => pack (cs.take n) :: packWords pack n W (cs.drop n)

/-- The first character of a string whose code point exceeds 0o777 (R186). -/
def firstWide (cs : List Char) : Option Char := cs.find? fun c => decide (0o777 < c.toNat)

/-- `ToASCIIWords(s, W)`; a string holding a character above 0o777 is refused (R186, R333). Log entry 21. -/
def toAsciiWords (cs : List Char) (W : Nat) : Except Refusal (List Word) :=
  match firstWide cs with
  | some c => .error (.wideCharacter c.toNat)
  | none => .ok (packWords packA 4 W (cs.map fun c => BitVec.ofNat 9 c.toNat))

/-- `FromASCIIWords`: the characters of each word in order, nothing trimmed (R186). -/
def fromAsciiWords (ws : List Word) : List Char := (ws.flatMap unpackA).map fun c => Char.ofNat c.toNat

/-- `ToFieldataWords(s, W)` (R187). -/
def toFieldataWords (cs : List Char) (W : Nat) : List Word := packWords packF 6 W (cs.map fieldataCode)

/-- `FromFieldataWords` (R187). -/
def fromFieldataWords (ws : List Word) : List Char := (ws.flatMap unpackF).map fieldataChar

end Sys2Proof.Machine
end

