-- ==== Sys2Proof/Machine/FieldChar.lean ====
section
/-! DEFINITION. The sign-extension, partial-word field and character-packing commands (R190 to R197 of
43_field_char.md). None writes a flag (R189). -/

namespace Sys2Proof.Machine

/-- EXTS (R190). -/
def execExts (rd ra : GrsAddr) (n : BitVec 7) (s : State) : Result :=
  if fieldSizeOK 36 n then done (s.setX rd (extendSign (s.x ra) n.toNat)) else badCommand s

/-- DEXTS (R191). -/
def execDexts (rd ra : GrsAddr) (n : BitVec 7) (s : State) : Result :=
  if fieldSizeOK 72 n && groupOK rd 2 && groupOK ra 2 then done (s.setPair rd (extendSign (s.pair ra) n.toNat))
  else badCommand s

/-- FLDX (R192). -/
def execFldx (rd ra : GrsAddr) (j : BitVec 4) (qw : Bool) (s : State) : Result :=
  done (s.setX rd (extractField (s.x ra) j qw))

/-- FLDI: the field value from `x[ra]`, the word from `x[rb]`; j = 14 and 15 are illegal (R193). -/
def execFldi (rd ra rb : GrsAddr) (j : BitVec 4) (qw : Bool) (s : State) : Result :=
  match insertField (s.x rb) j qw (s.x ra) with
  | some w => done (s.setX rd w)
  | none => badCommand s

/-- The low `w` bits of the `n` registers from `ra` on (R194, R196). -/
def State.codes (s : State) (w : Nat) (ra : GrsAddr) (n : Nat) : List (BitVec w) :=
  (List.range n).map fun i => (s.x (grsPlus ra i)).extractLsb' 0 w

/-- PACKA (R194). -/
def execPacka (rd ra : GrsAddr) (k : BitVec 7) (s : State) : Result :=
  let n := min k.toNat 4
  if groupOK ra n then done (s.setX rd (packA (s.codes 9 ra n))) else badCommand s

/-- UNPKA (R195). -/
def execUnpka (rd ra : GrsAddr) (s : State) : Result :=
  if groupOK rd 4 then done (s.setGroup rd ((unpackA (s.x ra)).map fun c => c.setWidth 36)) else badCommand s

/-- PACKF (R196). -/
def execPackf (rd ra : GrsAddr) (k : BitVec 7) (s : State) : Result :=
  let n := min k.toNat 6
  if groupOK ra n then done (s.setX rd (packF (s.codes 6 ra n))) else badCommand s

/-- UNPKF (R197). -/
def execUnpkf (rd ra : GrsAddr) (s : State) : Result :=
  if groupOK rd 6 then done (s.setGroup rd ((unpackF (s.x ra)).map fun c => c.setWidth 36)) else badCommand s

end Sys2Proof.Machine
end

