-- ==== Sys2Proof/Machine/Arithmetic.lean ====
section
/-! DEFINITION. The arithmetic commands (R120 to R131 of 41_arithmetic.md). -/

namespace Sys2Proof.Machine

/-- A 36-bit add-like command: `x[rd]` and STAT.c, STAT.o from `Add_36(a, b)`, STAT.d 0 (R120, R121). -/
def addInto (rd : GrsAddr) (a b : Word) (s : State) : Result :=
  let r := addN a b
  done ((s.setX rd r).setFlags (addCarry a b r) (addOverflow a b r) false)

/-- A 72-bit add-like command: the pair at `rd` and the flags from `Add_72(a, b)` (R123, R124). -/
def daddInto (rd : GrsAddr) (a b : DWord) (s : State) : Result :=
  let r := addN a b
  done ((s.setPair rd r).setFlags (addCarry a b r) (addOverflow a b r) false)

/-- The three pairs of a 72-bit command lie in the GRS (R84). -/
def pairsOK (rd ra rb : GrsAddr) : Bool := groupOK rd 2 && groupOK ra 2 && groupOK rb 2

/-- ADD (R120). -/
def execAdd (rd ra rb : GrsAddr) (s : State) : Result := addInto rd (s.x ra) (s.x rb) s

/-- SUB: `Add(a, Neg(b))` with its flags (R115, R121). -/
def execSub (rd ra rb : GrsAddr) (s : State) : Result := addInto rd (s.x ra) (negN (s.x rb)) s

/-- NEG (R122). -/
def execNeg (rd ra : GrsAddr) (s : State) : Result := done ((s.setX rd (negN (s.x ra))).setFlags false false false)

/-- DADD (R123). -/
def execDadd (rd ra rb : GrsAddr) (s : State) : Result :=
  if pairsOK rd ra rb then daddInto rd (s.pair ra) (s.pair rb) s else badCommand s

/-- DSUB (R115, R124). -/
def execDsub (rd ra rb : GrsAddr) (s : State) : Result :=
  if pairsOK rd ra rb then daddInto rd (s.pair ra) (negN (s.pair rb)) s else badCommand s

/-- DNEG (R125). -/
def execDneg (rd ra : GrsAddr) (s : State) : Result :=
  if groupOK rd 2 && groupOK ra 2 then done ((s.setPair rd (negN (s.pair ra))).setFlags false false false)
  else badCommand s

/-- MUL (R126). -/
def execMul (rd ra rb : GrsAddr) (s : State) : Result :=
  if groupOK rd 2 then
    done ((s.setPair rd (mulD (s.x ra) (s.x rb))).setFlags false (outOfRange 72 (product (s.x ra) (s.x rb))) false)
  else badCommand s

/-- MULS (R127). -/
def execMuls (rd ra rb : GrsAddr) (s : State) : Result :=
  done ((s.setX rd (mulS (s.x ra) (s.x rb))).setFlags false (outOfRange 36 (product (s.x ra) (s.x rb))) false)

/-- The end of a divide: the divide check is escalated with nothing written (R118), else the quotient goes to `rd`, the
remainder to `rd + 1`, the quotient overflow to STAT.d. -/
def divInto (rd : GrsAddr) (out : Option DivOut) (s : State) : Result :=
  match out with
  | none => raise .arithmeticException
  | some o => done (((s.setX rd o.q).setX (grsPlus rd 1) o.rm).setFlags false false o.dovf)

/-- DIV (R128). -/
def execDiv (rd ra rb : GrsAddr) (s : State) : Result :=
  if groupOK rd 2 && groupOK ra 2 then divInto rd (divN (s.pair ra) (s.x rb)) s else badCommand s

/-- DIVS (R129). -/
def execDivs (rd ra rb : GrsAddr) (s : State) : Result :=
  if groupOK rd 2 then divInto rd (divN (s.x ra) (s.x rb)) s else badCommand s

/-- CMP (R130). -/
def execCmp (rd ra rb : GrsAddr) (s : State) : Result := done (s.setX rd (cmpN (s.x ra) (s.x rb)))

/-- DCMP (R131). -/
def execDcmp (rd ra rb : GrsAddr) (s : State) : Result :=
  if groupOK ra 2 && groupOK rb 2 then done (s.setX rd (cmpN (s.pair ra) (s.pair rb))) else badCommand s

end Sys2Proof.Machine
end

