-- ==== Sys2Proof/Machine/LogicalShift.lean ====
section
/-! DEFINITION. The bitwise and shift commands (R160 to R177 of 42_logical_shift.md). None writes a flag (R157). -/

namespace Sys2Proof.Machine

/-- `x[rd] <- f(x[ra], x[rb])` (R160 to R162). -/
def bitwise36 (f : Word → Word → Word) (rd ra rb : GrsAddr) (s : State) : Result := done (s.setX rd (f (s.x ra) (s.x rb)))

/-- The pair at `rd` from the pairs at `ra` and `rb` (R163 to R165). -/
def bitwise72 (f : DWord → DWord → DWord) (rd ra rb : GrsAddr) (s : State) : Result :=
  if pairsOK rd ra rb then done (s.setPair rd (f (s.pair ra) (s.pair rb))) else badCommand s

/-- A 36-bit shift: the value from `x[ra]`, the count `val_36(x[rb])` (R151, R166 to R171). -/
def shift36 (f : Word → Int → Word) (rd ra rb : GrsAddr) (s : State) : Result :=
  done (s.setX rd (f (s.x ra) (val (s.x rb))))

/-- A 72-bit shift: the value from the pair at `ra`, the count from the one word `x[rb]` (R151, R172 to R177). -/
def shift72 (f : DWord → Int → DWord) (rd ra rb : GrsAddr) (s : State) : Result :=
  if groupOK rd 2 && groupOK ra 2 then done (s.setPair rd (f (s.pair ra) (val (s.x rb)))) else badCommand s

/-- AND (R160). -/
def execAnd (rd ra rb : GrsAddr) (s : State) : Result := bitwise36 (· &&& ·) rd ra rb s

/-- OR (R161). -/
def execOr (rd ra rb : GrsAddr) (s : State) : Result := bitwise36 (· ||| ·) rd ra rb s

/-- XOR (R162). -/
def execXor (rd ra rb : GrsAddr) (s : State) : Result := bitwise36 (· ^^^ ·) rd ra rb s

/-- DAND (R163). -/
def execDand (rd ra rb : GrsAddr) (s : State) : Result := bitwise72 (· &&& ·) rd ra rb s

/-- DOR (R164). -/
def execDor (rd ra rb : GrsAddr) (s : State) : Result := bitwise72 (· ||| ·) rd ra rb s

/-- DXOR (R165). -/
def execDxor (rd ra rb : GrsAddr) (s : State) : Result := bitwise72 (· ^^^ ·) rd ra rb s

/-- LSC (R166). -/
def execLsc (rd ra rb : GrsAddr) (s : State) : Result :=
  shift36 (shiftL s.cfg.algLeftFill .circular) rd ra rb s

/-- RSC (R167). -/
def execRsc (rd ra rb : GrsAddr) (s : State) : Result :=
  shift36 (shiftR s.cfg.algLeftFill .circular) rd ra rb s

/-- LSL (R168). -/
def execLsl (rd ra rb : GrsAddr) (s : State) : Result :=
  shift36 (shiftL s.cfg.algLeftFill .logical) rd ra rb s

/-- RSL (R169). -/
def execRsl (rd ra rb : GrsAddr) (s : State) : Result :=
  shift36 (shiftR s.cfg.algLeftFill .logical) rd ra rb s

/-- LSA (R170). -/
def execLsa (rd ra rb : GrsAddr) (s : State) : Result :=
  shift36 (shiftL s.cfg.algLeftFill .algebraic) rd ra rb s

/-- RSA (R171). -/
def execRsa (rd ra rb : GrsAddr) (s : State) : Result :=
  shift36 (shiftR s.cfg.algLeftFill .algebraic) rd ra rb s

/-- DLSC (R172). -/
def execDlsc (rd ra rb : GrsAddr) (s : State) : Result :=
  shift72 (shiftL s.cfg.algLeftFill .circular) rd ra rb s

/-- DRSC (R173). -/
def execDrsc (rd ra rb : GrsAddr) (s : State) : Result :=
  shift72 (shiftR s.cfg.algLeftFill .circular) rd ra rb s

/-- DLSL (R174). -/
def execDlsl (rd ra rb : GrsAddr) (s : State) : Result :=
  shift72 (shiftL s.cfg.algLeftFill .logical) rd ra rb s

/-- DRSL (R175). -/
def execDrsl (rd ra rb : GrsAddr) (s : State) : Result :=
  shift72 (shiftR s.cfg.algLeftFill .logical) rd ra rb s

/-- DLSA (R176). -/
def execDlsa (rd ra rb : GrsAddr) (s : State) : Result :=
  shift72 (shiftL s.cfg.algLeftFill .algebraic) rd ra rb s

/-- DRSA (R177). -/
def execDrsa (rd ra rb : GrsAddr) (s : State) : Result :=
  shift72 (shiftR s.cfg.algLeftFill .algebraic) rd ra rb s

end Sys2Proof.Machine
end

