-- ==== Sys2Proof/Machine/Dispatch.lean ====
section
/-! DEFINITION. The meaning of each command, one arm per constructor of Instr. -/

namespace Sys2Proof.Machine

def exec (i : Instr) (s : State) : Host.Outcome State Fault Refusal :=
  match i with
  | .add rd ra rb => Sys2Proof.Machine.execAdd rd ra rb s
  | .sub rd ra rb => Sys2Proof.Machine.execSub rd ra rb s
  | .neg rd ra => Sys2Proof.Machine.execNeg rd ra s
  | .dadd rd ra rb => Sys2Proof.Machine.execDadd rd ra rb s
  | .dsub rd ra rb => Sys2Proof.Machine.execDsub rd ra rb s
  | .dneg rd ra => Sys2Proof.Machine.execDneg rd ra s
  | .mul rd ra rb => Sys2Proof.Machine.execMul rd ra rb s
  | .muls rd ra rb => Sys2Proof.Machine.execMuls rd ra rb s
  | .div rd ra rb => Sys2Proof.Machine.execDiv rd ra rb s
  | .divs rd ra rb => Sys2Proof.Machine.execDivs rd ra rb s
  | .cmp rd ra rb => Sys2Proof.Machine.execCmp rd ra rb s
  | .dcmp rd ra rb => Sys2Proof.Machine.execDcmp rd ra rb s
  | .and rd ra rb => Sys2Proof.Machine.execAnd rd ra rb s
  | .or rd ra rb => Sys2Proof.Machine.execOr rd ra rb s
  | .xor rd ra rb => Sys2Proof.Machine.execXor rd ra rb s
  | .dand rd ra rb => Sys2Proof.Machine.execDand rd ra rb s
  | .dor rd ra rb => Sys2Proof.Machine.execDor rd ra rb s
  | .dxor rd ra rb => Sys2Proof.Machine.execDxor rd ra rb s
  | .lsc rd ra rb => Sys2Proof.Machine.execLsc rd ra rb s
  | .rsc rd ra rb => Sys2Proof.Machine.execRsc rd ra rb s
  | .lsl rd ra rb => Sys2Proof.Machine.execLsl rd ra rb s
  | .rsl rd ra rb => Sys2Proof.Machine.execRsl rd ra rb s
  | .lsa rd ra rb => Sys2Proof.Machine.execLsa rd ra rb s
  | .rsa rd ra rb => Sys2Proof.Machine.execRsa rd ra rb s
  | .dlsc rd ra rb => Sys2Proof.Machine.execDlsc rd ra rb s
  | .drsc rd ra rb => Sys2Proof.Machine.execDrsc rd ra rb s
  | .dlsl rd ra rb => Sys2Proof.Machine.execDlsl rd ra rb s
  | .drsl rd ra rb => Sys2Proof.Machine.execDrsl rd ra rb s
  | .dlsa rd ra rb => Sys2Proof.Machine.execDlsa rd ra rb s
  | .drsa rd ra rb => Sys2Proof.Machine.execDrsa rd ra rb s
  | .exts rd ra n => Sys2Proof.Machine.execExts rd ra n s
  | .dexts rd ra n => Sys2Proof.Machine.execDexts rd ra n s
  | .fldx rd ra j qw => Sys2Proof.Machine.execFldx rd ra j qw s
  | .fldi rd ra rb j qw => Sys2Proof.Machine.execFldi rd ra rb j qw s
  | .packa rd ra k => Sys2Proof.Machine.execPacka rd ra k s
  | .unpka rd ra => Sys2Proof.Machine.execUnpka rd ra s
  | .packf rd ra k => Sys2Proof.Machine.execPackf rd ra k s
  | .unpkf rd ra => Sys2Proof.Machine.execUnpkf rd ra s
  | .mov rd ra => Sys2Proof.Machine.execMov rd ra s
  | .ldi rd lit => Sys2Proof.Machine.execLdi rd lit s
  | .rddr rd => Sys2Proof.Machine.execRddr rd s
  | .wrdr ra => Sys2Proof.Machine.execWrdr ra s
  | .rdpar rd => Sys2Proof.Machine.execRdpar rd s
  | .wrpar ra => Sys2Proof.Machine.execWrpar ra s
  | .rdkey rd => Sys2Proof.Machine.execRdkey rd s
  | .wrkey ra => Sys2Proof.Machine.execWrkey ra s
  | .rdstat rd => Sys2Proof.Machine.execRdstat rd s
  | .updf => Sys2Proof.Machine.execUpdf s
  | .xinc rd lay => Sys2Proof.Machine.execXinc rd lay s
  | .xdec rd lay => Sys2Proof.Machine.execXdec rd lay s
  | .grsa rd kind n => Sys2Proof.Machine.execGrsa rd kind n s
  | .xlt rd ra k intent => Sys2Proof.Machine.execXlt rd ra k intent s
  | .xltn rd ra rb k intent => Sys2Proof.Machine.execXltn rd ra rb k intent s
  | .ld rd ra k => Sys2Proof.Machine.execLd rd ra k s
  | .st ra rb k => Sys2Proof.Machine.execSt ra rb k s
  | .dld rd ra k => Sys2Proof.Machine.execDld rd ra k s
  | .dst ra rb k => Sys2Proof.Machine.execDst ra rb k s
  | .ldbr ra k => Sys2Proof.Machine.execLdbr ra k s
  | .stbr rd k => Sys2Proof.Machine.execStbr rd k s
  | .basebd ra rb k => Sys2Proof.Machine.execBasebd ra rb k s
  | .ea rd ra => Sys2Proof.Machine.execEa rd ra s
  | .disp rd ra => Sys2Proof.Machine.execDisp rd ra s
  | .rcschk rd => Sys2Proof.Machine.execRcschk rd s
  | .rcswr ra => Sys2Proof.Machine.execRcswr ra s
  | .rcswrs tag => Sys2Proof.Machine.execRcswrs tag s
  | .rcspop rd => Sys2Proof.Machine.execRcspop rd s
  | .vecrd rd c => Sys2Proof.Machine.execVecrd rd c s

end Sys2Proof.Machine
end

