-- ==== Sys2Proof/Machine/Fetch.lean ====
section
/-! DEFINITION. The parts of a step outside a command's own meaning: the words at the command position, the advance past
a command, and the host's actions on the command port and on storage (R7, R8 of 00_scope.md; R43 of 10_state.md; R380 of
70_reset_and_hazards.md). -/

namespace Sys2Proof.Machine

/-- The words of the command list from the command position on (R43). -/
def State.pending (s : State) : List Word := s.cmds.drop s.cp

/-- `cp` advances by the command's length (R43, R380). -/
def State.advance (s : State) (n : Nat) : State := { s with cp := s.cp + n }

/-- The outcome of a command with `cp` advanced after `Done`; after `Fault` or `Refused` nothing moves (R43). -/
def advanceAfter (n : Nat) : Result → Result
  | .next t => .next (t.advance n)
  | .fault f => .fault f
  | .refused r => .refused r

/-- One step on the pending words. With none left the block is idle and keeps its state (R347, R380, log entry 15); words
that are no command are `BadCommand` (R87, R332); else the decoded command runs and `cp` moves past it. -/
def stepOn (ws : List Word) (s : State) : Result :=
  match decode ws with
  | .error .noCommand => .next s
  | .error (.undefinedOp _) => badCommand s
  | .error .literalMissing => badCommand s
  | .ok i => advanceAfter i.length (exec i s)

/-- The command list with the words `ws` at position `cp`; a position past the end of the list is reached by zeros. -/
def wordsAt (cmds : List Word) (cp : Nat) (ws : List Word) : List Word :=
  cmds.take cp ++ List.replicate (cp - cmds.length) 0 ++ ws ++ cmds.drop (cp + ws.length)

/-- A host starts a run: a new command list from `cp` = 0 on the state as it stands (R380). What the run reads of a
shared word is a new draw, whatever a command that faulted before it read there (R72, R384, log entry 9). -/
def State.newRun (s : State) (cmds : List Word) : State := { s.freshDraws with cmds := cmds, cp := 0 }

/-- The host writes a storage word directly (R8). DESIGN CHOICE: a word whose address does not exist is written like any
other, no command being able to reach it; R61 speaks of commands only (log entry 24). -/
def State.hostWrite (s : State) (a : AbsAddr) (v : Word) : State := { s with mem := s.mem.write a v }

/-- The host reads a storage word directly (R8): the word and the state after the read. DEDUCED: a word that another
agent may write is a new draw for the host too, as R72 has a model read it; R8 names no value (log entry 24). DESIGN
CHOICE: a word whose address does not exist is read like any other (log entry 24). -/
def State.hostRead (s : State) (a : AbsAddr) : Word × State :=
  let t := s.freshDraws
  (t.readWord 0 a, t.drew 1)

/-- The configuration inputs of a run are chosen by the host before it (R7, R9). DESIGN CHOICE: a word that was shared in
an earlier run and is no longer reads as what this context or `hostWrite` last stored there; R72 does not say what other
agents left (log entry 25). -/
def State.configure (s : State) (cfg : Config) : State := { s with cfg := cfg }

/-- The record the host reads after `Fault(rec)` (R8, R348). -/
def hostRecord : Result → Option FaultRecord
  | .fault f => some f.record
  | .next _ => none
  | .refused _ => none

end Sys2Proof.Machine
end

