-- ==== Sys2Proof/Machine/Step.lean ====
section
/-! DEFINITION. One step of the machine, and where it fetches its next command. -/

namespace Sys2Proof.Machine

/-- One command of the run (R4, R380). -/
def step (s : State) : Host.Outcome State Fault Refusal := stepOn s.pending s

/-- `s` with the command whose bits are `w` at the command position: the next word and, for LDI, its literal. Log entry
14. -/
def State.withFetchWord (s : State) (nbits w : Nat) : State :=
  { s with cmds := wordsAt s.cmds s.cp (tableWords nbits w) }

end Sys2Proof.Machine
end

