-- ==== Sys2Proof/Machine/Unwritten.lean ====
section
/-! DEFINITION. The spec's outcome `Refused(Unwritten)` as a view beside `exec` (R25, R29, R32, R34 of 10_state.md; R333,
R336 of 60_exceptions.md). Every register holds a value at reset in this model, so `exec` runs; `specExec` answers what
the spec answers where a command reads a register that has no value since reset. Log entry 5. -/

namespace Sys2Proof.Machine

/-- Some of the `n` registers from `r` on is unwritten (R25). -/
def State.unwrittenGroup (s : State) (r : GrsAddr) (n : Nat) : Bool :=
  (List.range n).any fun i => !(s.written.grs[(grsPlus r i).toNat]'(grsPlus r i).isLt)

/-- The location `r` is unwritten (R25). -/
def State.unwrittenX (s : State) (r : GrsAddr) : Bool := s.unwrittenGroup r 1

/-- A translation reads KEY only where the limits pass (R252), and KEY is unwritten. -/
def keyUnwrittenAt (s : State) (k : BrNum) (rel n : Nat) : Bool := limitsOK (s.b k) rel n && !s.written.key

/-- The index register an instruction word names is unwritten (R264). -/
def indexUnwritten (s : State) (iw : Word) : Bool :=
  match formIndex s iw with
  | some xa => s.unwrittenX xa
  | none => false

/-- An RCS command reads DR, then EX0 (R276 to R278). -/
def rcsUnwritten (s : State) : Bool := !s.written.dr || s.unwrittenX rcsXr

/-- A legal command ends `Refused(Unwritten)` by R336: a location its fields name is read unwritten, or its pseudocode
reaches a read of DR, PAR, KEY or an index register that is unwritten. -/
def readsUnwritten (i : Instr) (s : State) : Bool :=
  match i with
  | .add _ ra rb | .sub _ ra rb | .mul _ ra rb | .muls _ ra rb | .divs _ ra rb | .cmp _ ra rb
  | .and _ ra rb | .or _ ra rb | .xor _ ra rb
  | .lsc _ ra rb | .rsc _ ra rb | .lsl _ ra rb | .rsl _ ra rb | .lsa _ ra rb | .rsa _ ra rb =>
      s.unwrittenX ra || s.unwrittenX rb
  | .dadd _ ra rb | .dsub _ ra rb | .dcmp _ ra rb | .dand _ ra rb | .dor _ ra rb | .dxor _ ra rb =>
      s.unwrittenGroup ra 2 || s.unwrittenGroup rb 2
  | .div _ ra rb | .dlsc _ ra rb | .drsc _ ra rb | .dlsl _ ra rb | .drsl _ ra rb | .dlsa _ ra rb | .drsa _ ra rb =>
      s.unwrittenGroup ra 2 || s.unwrittenX rb
  | .neg _ ra | .exts _ ra _ | .fldx _ ra _ _ | .unpka _ ra | .unpkf _ ra | .mov _ ra | .wrdr ra | .wrpar ra
  | .wrkey ra => s.unwrittenX ra
  | .dneg _ ra | .dexts _ ra _ => s.unwrittenGroup ra 2
  | .fldi _ ra rb _ _ => s.unwrittenX ra || s.unwrittenX rb
  | .packa _ ra k => s.unwrittenGroup ra (min k.toNat 4)
  | .packf _ ra k => s.unwrittenGroup ra (min k.toNat 6)
  | .ldi _ _ | .rdstat _ | .stbr _ _ | .vecrd _ _ => false
  | .rddr _ | .updf | .grsa _ _ _ => !s.written.dr
  | .rdpar _ => !s.written.par
  | .rdkey _ => !s.written.key
  | .xinc rd _ | .xdec rd _ => s.unwrittenX rd
  | .xlt _ ra k _ => s.unwrittenX ra || keyUnwrittenAt s k (s.x ra).toNat 1
  | .xltn _ ra rb k _ =>
      s.unwrittenX ra || s.unwrittenX rb ||
        (decide ((s.x rb).toNat ≠ 0) && keyUnwrittenAt s k (s.x ra).toNat (s.x rb).toNat)
  | .ld _ ra k => s.unwrittenX ra || keyUnwrittenAt s k (s.x ra).toNat 1
  | .st ra rb k => s.unwrittenX ra || s.unwrittenX rb || keyUnwrittenAt s k (s.x ra).toNat 1
  | .dld _ ra k => s.unwrittenX ra || keyUnwrittenAt s k (s.x ra).toNat 2
  | .dst ra rb k => s.unwrittenX ra || s.unwrittenGroup rb 2 || keyUnwrittenAt s k (s.x ra).toNat 2
  | .ldbr ra _ => s.unwrittenGroup ra 4
  | .basebd ra rb _ => s.unwrittenX ra || s.unwrittenX rb || !s.written.dr
  | .ea _ ra => s.unwrittenX ra || !s.written.dr || indexUnwritten s (s.x ra)
  | .disp _ ra => s.unwrittenX ra || !s.written.dr
  | .rcschk _ | .rcspop _ => rcsUnwritten s
  | .rcswr ra => s.unwrittenGroup ra 2 || rcsUnwritten s
  | .rcswrs _ => !s.written.par || !s.written.dr || !s.written.key || rcsUnwritten s

/-- The spec's outcome of a command: `BadCommand` for an illegal K or group, then `Refused(Unwritten)`, else the command's
meaning (R336). -/
def specExec (i : Instr) (s : State) : Result :=
  if i.wellFormed && readsUnwritten i s then refuse .unwritten else exec i s

/-- One step with the spec's outcome for a read of an unwritten register. -/
def specStep (s : State) : Result :=
  match decode s.pending with
  | .error .noCommand => .next s
  | .error (.undefinedOp _) => badCommand s
  | .error .literalMissing => badCommand s
  | .ok i => advanceAfter i.length (specExec i s)

end Sys2Proof.Machine
end

