-- ==== Sys2Proof/Safety.lean ====
section
/-! DEFINITION. What counts as a safe step, in the terms the claims use: the outcomes, what a step leaves alone, the
invariants of the machine, and agreement on written registers. -/

namespace Sys2Proof.Machine

/-- The outcome is `Done` (R7). -/
def isDone : Result → Bool
  | .next _ => true
  | .fault _ => false
  | .refused _ => false

/-- A base register is void exactly if its limits are inverted, and a void one is `CanonicalVoid` (R38, R236). -/
def brOK (b : BaseReg) : Bool :=
  decide (b.void = true ↔ b.upper < b.lower) && (!b.void || decide (b = BaseReg.canonicalVoid))

/-- Every base register is as R38 and R236 say. -/
def State.brInv (s : State) : Bool := s.br.toList.all brOK

/-- The storage list has its canonical form (log entry 6). -/
def State.memInv (s : State) : Bool := s.mem.wf

/-- The command port and the configuration are the same in two states. -/
def samePorts (s t : State) : Prop := t.cfg = s.cfg ∧ t.cmds = s.cmds ∧ t.cp = s.cp

/-- Every GRS location outside `ds` holds what it held, and is marked unwritten if it was (R25). -/
def grsKept (ds : List GrsAddr) (s t : State) : Prop :=
  ∀ r, r ∉ ds → t.x r = s.x r ∧ t.unwrittenX r = s.unwrittenX r

/-- Every GRS location of `ds` is marked written: "a write makes the location written" (R25). -/
def grsWritten (ds : List GrsAddr) (t : State) : Prop := ∀ r ∈ ds, t.unwrittenX r = false

/-- Every storage word outside `as` reads as it did (R60, R63). -/
def storageKept (as : List AbsAddr) (s t : State) : Prop := ∀ a, a ∉ as → t.mem.read a = s.mem.read a

/-- Every base register outside `ks` is unchanged. -/
def brKept (ks : List BrNum) (s t : State) : Prop := ∀ k, k ∉ ks → t.b k = s.b k

/-- DR, PAR and KEY are unchanged, and so is which of them are marked written (R29, R32, R34). -/
def specialsKept (s t : State) : Prop :=
  t.dr = s.dr ∧ t.par = s.par ∧ t.key = s.key ∧ t.written.dr = s.written.dr ∧ t.written.par = s.written.par ∧
    t.written.key = s.written.key

/-- Outside the GRS locations of `ds` and STAT nothing changes, and `reads` storage words were read (the model's counter,
log entry 9). -/
def changesOnly (ds : List GrsAddr) (reads : Nat) (s t : State) : Prop :=
  grsKept ds s t ∧ specialsKept s t ∧ brKept [] s t ∧ storageKept [] s t ∧ samePorts s t ∧ t.draws = s.draws + reads

/-- The frame of a command that writes the GRS locations of `ds`: they are marked written, and outside them and STAT
nothing changes. -/
def framed (ds : List GrsAddr) (reads : Nat) (s t : State) : Prop := changesOnly ds reads s t ∧ grsWritten ds t

/-- The command ends `Done`, the GRS locations of `vs` hold the words of `vs`, STAT is `st`, and nothing else changes. -/
def completesTo (i : Instr) (s : State) (vs : List (GrsAddr × Word)) (st : Stat) : Prop :=
  ∃ t, exec i s = .next t ∧ (∀ p ∈ vs, t.x p.1 = p.2) ∧ t.stat = st ∧ framed (vs.map Prod.fst) 0 s t

/-- The command ends `Done`, bit `k` of `x[rd]` is `bitOf k`, and nothing else changes. -/
def setsBits (i : Instr) (s : State) (rd : GrsAddr) (bitOf : Nat → Bool) : Prop :=
  ∃ t, exec i s = .next t ∧ (∀ k < 36, (t.x rd).getLsbD k = bitOf k) ∧ t.stat = s.stat ∧ framed [rd] 0 s t

/-- The command ends `Done`, bit `k` of the pair at `rd` is `bitOf k`, and nothing else changes. -/
def setsPairBits (i : Instr) (s : State) (rd : GrsAddr) (bitOf : Nat → Bool) : Prop :=
  ∃ t, exec i s = .next t ∧ (∀ k < 72, (t.pair rd).getLsbD k = bitOf k) ∧ t.stat = s.stat ∧
    framed [rd, grsPlus rd 1] 0 s t

/-- STAT after an add of `a` and `b` with result `r`: the sign formulas of R112 and R113, STAT.d 0, STAT.u as it was. -/
def sumStat {n : Nat} (u : Bool) (a b r : BitVec n) : Stat where
  c := (a.msb && b.msb) || ((a.msb != b.msb) && !r.msb)
  o := (a.msb == b.msb) && (r.msb != a.msb)
  d := false
  u := u

/-- Bit `k` of an algebraic left shift of `v` by `c` places, right where `c` is negative (R151, R154, R155): the top bit
is the sign; below it come the bits of `v`, the sign above them and the fill below them. -/
def algebraicBit {N : Nat} (fill : AlgLeftFill) (v : BitVec N) (c : Int) (k : Nat) : Bool :=
  if k = N - 1 then v.msb
  else if (k : Int) - c < 0 then decide (fill = .sign) && v.msb
  else if (N : Int) - 1 ≤ (k : Int) - c then v.msb
  else v.getLsbD ((k : Int) - c).toNat

/-- Bit `k` of a logical left shift of `v` by `c` places, right where `c` is negative (R151, R153). -/
def logicalBit {N : Nat} (v : BitVec N) (c : Int) (k : Nat) : Bool :=
  decide (0 ≤ (k : Int) - c) && decide ((k : Int) - c < N) && v.getLsbD ((k : Int) - c).toNat

/-- Bit `k` of a left rotation of `v` by `c` places, right where `c` is negative (R151, R152). -/
def circularBit {N : Nat} (v : BitVec N) (c : Int) (k : Nat) : Bool := v.getLsbD (((k : Int) - c) % N).toNat

/-- Nothing but storage changes between two states. -/
def onlyStorage (s t : State) : Prop :=
  grsKept [] s t ∧ specialsKept s t ∧ brKept [] s t ∧ t.stat = s.stat ∧ samePorts s t ∧ t.draws = s.draws

/-- `rel` to `rel + n − 1` lie within the limits of a bank that is based (R247). -/
def inLimits (b : BaseReg) (rel n : Nat) : Prop := b.void = false ∧ b.lower ≤ rel ∧ rel + n ≤ b.upper + 1

/-- The set R245 selects for a key: special where the key's ring is smaller than the lock's or the domains match. -/
def selectedPerms (b : BaseReg) (key : BitVec 18) : AccessPerms :=
  if key.toNat / 2 ^ 16 < b.lock.ring.toNat ∨ key.toNat % 2 ^ 16 = b.lock.domain.toNat then b.sap else b.gap

/-- The `n` words from `a` on exist (R61). -/
def allPresent (s : State) (a : AbsAddr) (n : Nat) : Prop := ∀ i < n, s.present (addrPlus a i) = true

/-- The partial-word fields of R92 by j: lowest bit, width, sign extension; entries 14 and 15 are the immediates U and
XU of R182. -/
def partialFields (qw : Bool) : List (Nat × Nat × Bool) :=
  [(0, 36, false), (0, 18, false), (18, 18, false), (0, 18, true)] ++
  (if qw then [(18, 9, false), (0, 9, false), (9, 9, false), (27, 9, false)]
   else [(18, 18, true), (0, 12, true), (12, 12, true), (24, 12, true)]) ++
  [(0, 6, false), (6, 6, false), (12, 6, false), (18, 6, false), (24, 6, false), (30, 6, false),
   (0, 18, false), (0, 18, true)]

/-- Two states agree on everything but what unwritten registers hold (R25, R29, R32, R34). -/
def agreeOnWritten (s t : State) : Prop :=
  t.cfg = s.cfg ∧ t.cmds = s.cmds ∧ t.cp = s.cp ∧ t.stat = s.stat ∧ t.br = s.br ∧ t.mem = s.mem ∧
    t.written = s.written ∧ t.draws = s.draws ∧ (∀ r, s.unwrittenX r = false → t.x r = s.x r) ∧
    (s.written.dr = true → t.dr = s.dr) ∧ (s.written.par = true → t.par = s.par) ∧
    (s.written.key = true → t.key = s.key)

/-- Two outcomes are the same fault, the same refusal, or next states that agree on written registers. -/
def agreeOutcomes : Result → Result → Prop
  | .next s, .next t => agreeOnWritten s t
  | .fault f, .fault g => f = g
  | .refused f, .refused g => f = g
  | .next _, .fault _ => False
  | .next _, .refused _ => False
  | .fault _, .next _ => False
  | .fault _, .refused _ => False
  | .refused _, .next _ => False
  | .refused _, .fault _ => False

end Sys2Proof.Machine
end

