-- ==== Sys2Proof/Certificates/Slice0/Obligations.lean ====
section
/-! DEFINITION. The statements for the provers, from the numbered rules of spec/. Statements about `exec` hold at every
state; where a command reads a register marked unwritten the spec's own outcome is `Refused(Unwritten)`, which is
`specExec` (log entry 5). -/

open Sys2Proof Sys2Proof.Machine

/-! Encoding (30_encoding.md) -/

/-- R80 to R88: the decoder reads back every command from the words the encoder writes, whatever words follow, with
every operand at every value, legal or not. -/
def Obligations.DecodeEncodeAgree : Prop :=
  ∀ (i : Instr) (rest : List Word), decode (encode i ++ rest) = .ok i

/-- R81: the places of the five fields, and the number a command word is. -/
def Obligations.CommandWordLayout : Prop :=
  (∀ cw : Word, (fOP cw).toNat = cw.toNat / 2 ^ 28 ∧ (fRD cw).toNat = cw.toNat / 2 ^ 21 % 2 ^ 7 ∧
    (fRA cw).toNat = cw.toNat / 2 ^ 14 % 2 ^ 7 ∧ (fRB cw).toNat = cw.toNat / 2 ^ 7 % 2 ^ 7 ∧
    (fK cw).toNat = cw.toNat % 2 ^ 7) ∧
  ∀ (op : BitVec 8) (rd ra rb : GrsAddr) (k : BitVec 7), (commandWord op rd ra rb k).toNat =
    op.toNat * 2 ^ 28 + rd.toNat * 2 ^ 21 + ra.toNat * 2 ^ 14 + rb.toNat * 2 ^ 7 + k.toNat

/-- R82, R83, R85, R86: the command each operation code stands for, its K field taken apart, every field it does not use
ignored. -/
def Obligations.OpcodeMap : Prop :=
  ∀ (rd ra rb : GrsAddr) (k : BitVec 7) (lit : Word) (rest : List Word),
    let cmd (op : BitVec 8) : Except DecodeError Instr := decode (commandWord op rd ra rb k :: rest)
    let br : BrNum := k.extractLsb' 0 5
    let top : BitVec 2 := k.extractLsb' 5 2
    let j : BitVec 4 := k.extractLsb' 0 4
    let lay : XLayout := if k.getLsbD 0 then .exec24 else .std
    (cmd 0x01 = .ok (.add rd ra rb) ∧ cmd 0x02 = .ok (.sub rd ra rb) ∧ cmd 0x03 = .ok (.neg rd ra) ∧
      cmd 0x04 = .ok (.dadd rd ra rb) ∧ cmd 0x05 = .ok (.dsub rd ra rb) ∧ cmd 0x06 = .ok (.dneg rd ra) ∧
      cmd 0x07 = .ok (.mul rd ra rb) ∧ cmd 0x08 = .ok (.muls rd ra rb) ∧ cmd 0x09 = .ok (.div rd ra rb) ∧
      cmd 0x0A = .ok (.divs rd ra rb) ∧ cmd 0x0B = .ok (.cmp rd ra rb) ∧ cmd 0x0C = .ok (.dcmp rd ra rb)) ∧
    (cmd 0x10 = .ok (.and rd ra rb) ∧ cmd 0x11 = .ok (.or rd ra rb) ∧ cmd 0x12 = .ok (.xor rd ra rb) ∧
      cmd 0x14 = .ok (.dand rd ra rb) ∧ cmd 0x15 = .ok (.dor rd ra rb) ∧ cmd 0x16 = .ok (.dxor rd ra rb) ∧
      cmd 0x20 = .ok (.lsc rd ra rb) ∧ cmd 0x21 = .ok (.rsc rd ra rb) ∧ cmd 0x22 = .ok (.lsl rd ra rb) ∧
      cmd 0x23 = .ok (.rsl rd ra rb) ∧ cmd 0x24 = .ok (.lsa rd ra rb) ∧ cmd 0x25 = .ok (.rsa rd ra rb) ∧
      cmd 0x28 = .ok (.dlsc rd ra rb) ∧ cmd 0x29 = .ok (.drsc rd ra rb) ∧ cmd 0x2A = .ok (.dlsl rd ra rb) ∧
      cmd 0x2B = .ok (.drsl rd ra rb) ∧ cmd 0x2C = .ok (.dlsa rd ra rb) ∧ cmd 0x2D = .ok (.drsa rd ra rb)) ∧
    (cmd 0x30 = .ok (.exts rd ra k) ∧ cmd 0x31 = .ok (.dexts rd ra k) ∧
      cmd 0x32 = .ok (.fldx rd ra j (k.getLsbD 4)) ∧ cmd 0x33 = .ok (.fldi rd ra rb j (k.getLsbD 4)) ∧
      cmd 0x34 = .ok (.packa rd ra k) ∧ cmd 0x35 = .ok (.unpka rd ra) ∧ cmd 0x36 = .ok (.packf rd ra k) ∧
      cmd 0x37 = .ok (.unpkf rd ra)) ∧
    (cmd 0x40 = .ok (.mov rd ra) ∧ decode (commandWord 0x41 rd ra rb k :: lit :: rest) = .ok (.ldi rd lit) ∧
      cmd 0x42 = .ok (.rddr rd) ∧ cmd 0x43 = .ok (.wrdr ra) ∧ cmd 0x44 = .ok (.rdpar rd) ∧ cmd 0x45 = .ok (.wrpar ra) ∧
      cmd 0x46 = .ok (.rdkey rd) ∧ cmd 0x47 = .ok (.wrkey ra) ∧ cmd 0x48 = .ok (.rdstat rd) ∧ cmd 0x49 = .ok .updf ∧
      cmd 0x4A = .ok (.xinc rd lay) ∧ cmd 0x4B = .ok (.xdec rd lay) ∧ cmd 0x4C = .ok (.grsa rd top j)) ∧
    (cmd 0x50 = .ok (.xlt rd ra br top) ∧ cmd 0x51 = .ok (.xltn rd ra rb br top) ∧ cmd 0x52 = .ok (.ld rd ra br) ∧
      cmd 0x53 = .ok (.st ra rb br) ∧ cmd 0x54 = .ok (.dld rd ra br) ∧ cmd 0x55 = .ok (.dst ra rb br) ∧
      cmd 0x56 = .ok (.ldbr ra br) ∧ cmd 0x57 = .ok (.stbr rd br) ∧ cmd 0x58 = .ok (.basebd ra rb br) ∧
      cmd 0x59 = .ok (.ea rd ra)) ∧
    (cmd 0x60 = .ok (.disp rd ra) ∧ cmd 0x61 = .ok (.rcschk rd) ∧ cmd 0x62 = .ok (.rcswr ra) ∧
      cmd 0x63 = .ok (.rcswrs (k.extractLsb' 0 2)) ∧ cmd 0x64 = .ok (.rcspop rd) ∧
      cmd 0x65 = .ok (.vecrd rd (k.extractLsb' 0 6)))

/-- R81, R86: some command words written out as the fields' octal digits and what they stand for. -/
def Obligations.DecodedWords : Prop :=
  decode [0o002020_040600] = .ok (.add 2 1 3) ∧
  decode [0o142160_400103] = .ok (.dexts 14 8 67) ∧
  decode [0o202030_000000, 0o111111_111111] = .ok (.ldi 3 0o111111_111111) ∧
  decode [0o240050_140103] = .ok (.xlt 5 3 3 2) ∧
  decode [0o312040_000010] = .ok (.vecrd 4 8)

/-- R87: an operation code that R86 does not list is `BadCommand` with ssf 1. -/
def Obligations.UndefinedOpIsBadCommand : Prop :=
  ∀ (s : State) (cw : Word), s.cmds[s.cp]? = some cw →
    cw.toNat / 2 ^ 28 ∉ [0x01, 0x02, 0x03, 0x04, 0x05, 0x06, 0x07, 0x08, 0x09, 0x0A, 0x0B, 0x0C, 0x10, 0x11, 0x12,
      0x14, 0x15, 0x16, 0x20, 0x21, 0x22, 0x23, 0x24, 0x25, 0x28, 0x29, 0x2A, 0x2B, 0x2C, 0x2D, 0x30, 0x31, 0x32, 0x33,
      0x34, 0x35, 0x36, 0x37, 0x40, 0x41, 0x42, 0x43, 0x44, 0x45, 0x46, 0x47, 0x48, 0x49, 0x4A, 0x4B, 0x4C, 0x50, 0x51,
      0x52, 0x53, 0x54, 0x55, 0x56, 0x57, 0x58, 0x59, 0x60, 0x61, 0x62, 0x63, 0x64, 0x65] →
    step s = .fault (.badCommand cw) ∧ (Fault.badCommand cw).record = ⟨14, 1, false, 0, cw⟩

/-- R84, R85, R254, R332: a decoded command ends in `BadCommand` exactly if its K value is illegal, a register group of
it runs past address 127, or it is XLTN with a count of 0; the information is the command word (0 where the list holds none: log entry 14). -/
def Obligations.BadCommandExactly : Prop :=
  ∀ (i : Instr) (s : State) (cw : Word), exec i s = .fault (.badCommand cw) ↔
    cw = s.command ∧ (i.wellFormed = false ∨ ∃ rd ra rb k n, i = .xltn rd ra rb k n ∧ s.x rb = 0)

/-- R82, R380: LDI takes the next word of the list as its literal; where there is none it is `BadCommand`. -/
def Obligations.LdiTakesLiteral : Prop :=
  ∀ (s : State) (cw : Word), s.cmds[s.cp]? = some cw → cw.toNat / 2 ^ 28 = 0x41 →
    (s.cmds.length = s.cp + 1 → step s = .fault (.badCommand cw)) ∧
    (∀ lit, s.cmds[s.cp + 1]? = some lit → ∃ t, step s = .next t ∧ t.x (fRD cw) = lit ∧ grsKept [fRD cw] s t ∧
      grsWritten [fRD cw] t ∧ t.cp = s.cp + 2)

/-! The step and the machine as a whole -/

/-- R43, R380: a step runs the command its words decode to, and moves the position past it after `Done` only. -/
def Obligations.StepRunsDecoded : Prop :=
  ∀ (s : State) (i : Instr), decode (s.cmds.drop s.cp) = .ok i →
    (∀ t, exec i s = .next t → step s = .next { t with cp := t.cp + i.length }) ∧
    (∀ f, exec i s = .fault f → step s = .fault f) ∧ (∀ r, exec i s = .refused r → step s = .refused r)

/-- R43, R80, R380: a step that ends `Done` moves the position by 2 for LDI and by 1 for every other command, and leaves
the command list and the parameters; at the end of the list the block is idle (the model's reading, log entry 15). -/
def Obligations.StepAdvancesPosition : Prop :=
  ∀ s t : State, step s = .next t →
    t.cmds = s.cmds ∧ t.cfg = s.cfg ∧
    (∀ cw, s.cmds[s.cp]? = some cw → t.cp = s.cp + (if cw.toNat / 2 ^ 28 = 0x41 then 2 else 1)) ∧
    (s.cmds.length ≤ s.cp → t = s)

/-- The canonical form of the storage list is kept by every step (log entry 6). -/
def Obligations.StepKeepsStorageForm : Prop :=
  ∀ s t : State, s.memInv = true → step s = .next t → t.memInv = true

/-- R38 (and R236): that a base register is void exactly if its lower limit exceeds its upper, and a void one is
`CanonicalVoid`, is kept by every step, and every step that changes a base register establishes it there. -/
def Obligations.StepKeepsBaseRegisters : Prop :=
  let good (b : BaseReg) : Prop := (b.void = true ↔ b.upper < b.lower) ∧ (b.void = true → b = BaseReg.canonicalVoid)
  ∀ s t : State, step s = .next t →
    ((∀ k, good (s.b k)) → ∀ k, good (t.b k)) ∧ ∀ k, t.b k ≠ s.b k → good (t.b k)

/-- The reset state meets both invariants. -/
def Obligations.ResetMeetsInvariants : Prop :=
  State.reset.memInv = true ∧ State.reset.brInv = true ∧
    ∀ k, ((State.reset.b k).void = true ↔ (State.reset.b k).upper < (State.reset.b k).lower) ∧
      ((State.reset.b k).void = true → State.reset.b k = BaseReg.canonicalVoid)

/-- R36, R40 and the unwritten marks of R371: what the spec says of the state after reset. -/
def Obligations.ResetValues : Prop :=
  State.reset.stat = ⟨false, false, false, false⟩ ∧ State.reset.cp = 0 ∧
    (∀ k, State.reset.b k = ⟨true, ⟨0, 0, 0⟩, false, 1, 0, ⟨0, 0⟩, ⟨false, false, false⟩, ⟨false, false, false⟩⟩) ∧
    (∀ r, State.reset.unwrittenX r = true) ∧ State.reset.written.dr = false ∧ State.reset.written.par = false ∧
    State.reset.written.key = false

/-- R28, R31, R33, R39, R67: DR is written by WRDR and UPDF only, PAR by WRPAR only, KEY by WRKEY only, base registers by
LDBR and BASEBD only, storage by ST, DST, RCSWR and RCSWRS only. -/
def Obligations.StateWriters : Prop :=
  ∀ (i : Instr) (s t : State), exec i s = .next t →
    (t.dr = s.dr ∨ (∃ ra, i = .wrdr ra) ∨ i = .updf) ∧ (t.par = s.par ∨ ∃ ra, i = .wrpar ra) ∧
    (t.key = s.key ∨ ∃ ra, i = .wrkey ra) ∧
    (t.br = s.br ∨ (∃ ra k, i = .ldbr ra k) ∨ ∃ ra rb k, i = .basebd ra rb k) ∧
    (t.mem = s.mem ∨ (∃ ra rb k, i = .st ra rb k ∨ i = .dst ra rb k) ∨ (∃ ra, i = .rcswr ra) ∨ ∃ tag, i = .rcswrs tag)

/-- R35: STAT.c, STAT.o and STAT.d are written by the ten arithmetic commands only, STAT.u by EA only. -/
def Obligations.StatusWriters : Prop :=
  ∀ (i : Instr) (s t : State), exec i s = .next t →
    t.stat = s.stat ∨
    (t.stat.u = s.stat.u ∧
      ((∃ rd ra rb, i = .add rd ra rb ∨ i = .sub rd ra rb ∨ i = .dadd rd ra rb ∨ i = .dsub rd ra rb ∨
          i = .mul rd ra rb ∨ i = .muls rd ra rb ∨ i = .div rd ra rb ∨ i = .divs rd ra rb) ∨
        ∃ rd ra, i = .neg rd ra ∨ i = .dneg rd ra)) ∨
    (t.stat.c = s.stat.c ∧ t.stat.o = s.stat.o ∧ t.stat.d = s.stat.d ∧ ∃ rd ra, i = .ea rd ra)

/-- R21, R22: the addresses of the register names, and that the names X12 to X15 and A0 to A3, EX12 to EX15 and EA0 to
EA3, reach one location each. -/
def Obligations.RegisterAliases : Prop :=
  (∀ n : BitVec 4, (regAddr .x n).toNat = n.toNat ∧ (regAddr .a n).toNat = 12 + n.toNat ∧
    (regAddr .r n).toNat = 64 + n.toNat ∧ (regAddr .er n).toNat = 80 + n.toNat ∧ (regAddr .ex n).toNat = 96 + n.toNat ∧
    (regAddr .ea n).toNat = 108 + n.toNat) ∧
  ∀ (s : State) (v : Word), ∀ n < 4,
    (s.setX (regAddr .x (BitVec.ofNat 4 (12 + n))) v).x (regAddr .a (BitVec.ofNat 4 n)) = v ∧
    (s.setX (regAddr .a (BitVec.ofNat 4 n)) v).x (regAddr .x (BitVec.ofNat 4 (12 + n))) = v ∧
    (s.setX (regAddr .ex (BitVec.ofNat 4 (12 + n))) v).x (regAddr .ea (BitVec.ofNat 4 n)) = v ∧
    (s.setX (regAddr .ea (BitVec.ofNat 4 n)) v).x (regAddr .ex (BitVec.ofNat 4 (12 + n))) = v

/-! Arithmetic (41_arithmetic.md) -/

/-- R113, R114, at 36 and at 72 bits: overflow is that operands of one sign have a result of the other, which is so
exactly if the sum of the values does not fit; where it fits the result has that value (R111); −0 + −0 is −0, every other
zero sum is +0, and no other operands give −0. -/
def Obligations.AddOverflowExactly : Prop :=
  (∀ a b : Word, (addOverflow a b (addN a b) = true ↔ a.msb = b.msb ∧ (addN a b).msb ≠ a.msb) ∧
    (addOverflow a b (addN a b) = true ↔ 2 ^ 35 - 1 < (val a + val b).natAbs) ∧
    ((val a + val b).natAbs ≤ 2 ^ 35 - 1 → val (addN a b) = val a + val b) ∧
    (addN a b = negZero 36 ↔ a = negZero 36 ∧ b = negZero 36) ∧
    (val a + val b = 0 → ¬(a = negZero 36 ∧ b = negZero 36) → addN a b = 0)) ∧
  ∀ a b : DWord, (addOverflow a b (addN a b) = true ↔ a.msb = b.msb ∧ (addN a b).msb ≠ a.msb) ∧
    (addOverflow a b (addN a b) = true ↔ 2 ^ 71 - 1 < (val a + val b).natAbs) ∧
    ((val a + val b).natAbs ≤ 2 ^ 71 - 1 → val (addN a b) = val a + val b) ∧
    (addN a b = negZero 72 ↔ a = negZero 72 ∧ b = negZero 72) ∧
    (val a + val b = 0 → ¬(a = negZero 72 ∧ b = negZero 72) → addN a b = 0)

/-- R112, at 36 and at 72 bits: the carry is the sign formula, and that is the carry out of the unsigned sum but where
operands of different sign sum to zero; every sum, overflowing or not, is congruent to the sum of the values modulo
`2^N − 1` (R111). -/
def Obligations.AddCarryAndCongruence : Prop :=
  (∀ a b : Word, (addCarry a b (addN a b) = true ↔
      (a.msb = true ∧ b.msb = true) ∨ (a.msb ≠ b.msb ∧ (addN a b).msb = false)) ∧
    (addCarry a b (addN a b) = true ↔ 2 ^ 36 ≤ a.toNat + b.toNat ∨ (a.msb ≠ b.msb ∧ val a + val b = 0)) ∧
    ((addN a b).toNat : Int) % (2 ^ 36 - 1) = (val a + val b) % (2 ^ 36 - 1)) ∧
  ∀ a b : DWord, (addCarry a b (addN a b) = true ↔
      (a.msb = true ∧ b.msb = true) ∨ (a.msb ≠ b.msb ∧ (addN a b).msb = false)) ∧
    (addCarry a b (addN a b) = true ↔ 2 ^ 72 ≤ a.toNat + b.toNat ∨ (a.msb ≠ b.msb ∧ val a + val b = 0)) ∧
    ((addN a b).toNat : Int) % (2 ^ 72 - 1) = (val a + val b) % (2 ^ 72 - 1)

/-- R134, for both widths: negation is its own inverse and exchanges the zeros; an add does not depend on the order of
its operands; −0 + −0 is −0. -/
def Obligations.KernelLaws : Prop :=
  ∀ N, N = 36 ∨ N = 72 → (∀ v : BitVec N, negN (negN v) = v) ∧ negN (0 : BitVec N) = negZero N ∧
    negN (negZero N) = 0 ∧
    (∀ a b : BitVec N, addN a b = addN b a ∧ addCarry a b (addN a b) = addCarry b a (addN b a) ∧
      addOverflow a b (addN a b) = addOverflow b a (addN b a)) ∧
    addN (negZero N) (negZero N) = negZero N

/-- ADD, SUB, NEG, DADD, DSUB, DNEG (R115, R116, R120 to R125): the result, the flags of the add of its width, nothing
else; DNEG complements each word. -/
def Obligations.AddSubNegResult : Prop :=
  ∀ (s : State) (rd ra rb : GrsAddr),
    let a := s.x ra
    let b := s.x rb
    let aa := s.pair ra
    let bb := s.pair rb
    completesTo (.add rd ra rb) s [(rd, addN a b)] (sumStat s.stat.u a b (addN a b)) ∧
    completesTo (.sub rd ra rb) s [(rd, addN a (~~~b))] (sumStat s.stat.u a (~~~b) (addN a (~~~b))) ∧
    completesTo (.neg rd ra) s [(rd, ~~~a)] ⟨false, false, false, s.stat.u⟩ ∧
    (rd.toNat + 2 ≤ 128 → ra.toNat + 2 ≤ 128 →
      (rb.toNat + 2 ≤ 128 →
        completesTo (.dadd rd ra rb) s [(rd, hi (addN aa bb)), (grsPlus rd 1, lo (addN aa bb))]
          (sumStat s.stat.u aa bb (addN aa bb)) ∧
        completesTo (.dsub rd ra rb) s [(rd, hi (addN aa (~~~bb))), (grsPlus rd 1, lo (addN aa (~~~bb)))]
          (sumStat s.stat.u aa (~~~bb) (addN aa (~~~bb)))) ∧
      completesTo (.dneg rd ra) s [(rd, ~~~a), (grsPlus rd 1, ~~~(s.x (grsPlus ra 1)))]
        ⟨false, false, false, s.stat.u⟩)

/-- MUL, MULS (R117, R126, R127): MUL's pair has the value of the product and never overflows; MULS keeps the low word
of the 72-bit pattern and STAT.o says that the product does not fit. -/
def Obligations.MultiplyResult : Prop :=
  ∀ (s : State) (rd ra rb : GrsAddr),
    let P := val (s.x ra) * val (s.x rb)
    val (oc 72 P) = P ∧
    (rd.toNat + 2 ≤ 128 →
      completesTo (.mul rd ra rb) s [(rd, hi (oc 72 P)), (grsPlus rd 1, lo (oc 72 P))]
        ⟨false, false, false, s.stat.u⟩) ∧
    completesTo (.muls rd ra rb) s [(rd, (oc 72 P).setWidth 36)]
      ⟨false, decide (2 ^ 35 - 1 < P.natAbs), false, s.stat.u⟩

/-- DIV, DIVS (R118, R128, R129): the quotient truncated toward zero and the remainder with the dividend's sign; STAT.d
is DIV's quotient overflow and always 0 for DIVS; a zero divisor of either sign is the divide check. -/
def Obligations.DivideResult : Prop :=
  ∀ (s : State) (rd ra rb : GrsAddr), rd.toNat + 2 ≤ 128 →
    let V := val (s.x rb)
    let D2 := val (s.pair ra)
    let D1 := val (s.x ra)
    ((s.x rb ≠ 0 ∧ s.x rb ≠ negZero 36) →
      (ra.toNat + 2 ≤ 128 →
        completesTo (.div rd ra rb) s
          [(rd, (oc 72 (D2.tdiv V)).setWidth 36), (grsPlus rd 1, oc 36 (D2.tmod V))]
          ⟨false, false, decide (2 ^ 35 - 1 < (D2.tdiv V).natAbs), s.stat.u⟩) ∧
      completesTo (.divs rd ra rb) s [(rd, oc 36 (D1.tdiv V)), (grsPlus rd 1, oc 36 (D1.tmod V))]
        ⟨false, false, false, s.stat.u⟩) ∧
    ((s.x rb = 0 ∨ s.x rb = negZero 36) →
      (ra.toNat + 2 ≤ 128 → exec (.div rd ra rb) s = .fault .arithmeticException) ∧
      exec (.divs rd ra rb) s = .fault .arithmeticException)

/-- CMP, DCMP (R119, R130, R131): −1, +0 or +1 by the values, so +0 and −0 compare equal; no flag is written. -/
def Obligations.CompareResult : Prop :=
  ∀ (s : State) (rd ra rb : GrsAddr),
    completesTo (.cmp rd ra rb) s
      [(rd, if val (s.x ra) < val (s.x rb) then 0o777777_777776 else if val (s.x ra) = val (s.x rb) then 0 else 1)]
      s.stat ∧
    (ra.toNat + 2 ≤ 128 → rb.toNat + 2 ≤ 128 →
      completesTo (.dcmp rd ra rb) s
        [(rd, if val (s.pair ra) < val (s.pair rb) then 0o777777_777776
              else if val (s.pair ra) = val (s.pair rb) then 0 else 1)] s.stat)

/-! Logical operations and shifts (42_logical_shift.md) -/

/-- AND to DXOR (R150, R160 to R165): bit by bit, the two words of a pair independent, no flag written. -/
def Obligations.BitwiseResult : Prop :=
  ∀ (s : State) (rd ra rb : GrsAddr),
    (setsBits (.and rd ra rb) s rd (fun k => (s.x ra).getLsbD k && (s.x rb).getLsbD k) ∧
      setsBits (.or rd ra rb) s rd (fun k => (s.x ra).getLsbD k || (s.x rb).getLsbD k) ∧
      setsBits (.xor rd ra rb) s rd (fun k => (s.x ra).getLsbD k != (s.x rb).getLsbD k)) ∧
    (rd.toNat + 2 ≤ 128 → ra.toNat + 2 ≤ 128 → rb.toNat + 2 ≤ 128 →
      completesTo (.dand rd ra rb) s
        [(rd, s.x ra &&& s.x rb), (grsPlus rd 1, s.x (grsPlus ra 1) &&& s.x (grsPlus rb 1))] s.stat ∧
      completesTo (.dor rd ra rb) s
        [(rd, s.x ra ||| s.x rb), (grsPlus rd 1, s.x (grsPlus ra 1) ||| s.x (grsPlus rb 1))] s.stat ∧
      completesTo (.dxor rd ra rb) s
        [(rd, s.x ra ^^^ s.x rb), (grsPlus rd 1, s.x (grsPlus ra 1) ^^^ s.x (grsPlus rb 1))] s.stat)

/-- LSC, RSC, DLSC, DRSC (R151, R152): each bit is the bit the signed count away around the word; no flag is written. -/
def Obligations.CircularShiftResult : Prop :=
  ∀ (s : State) (rd ra rb : GrsAddr),
    (setsBits (.lsc rd ra rb) s rd (circularBit (s.x ra) (val (s.x rb))) ∧
      setsBits (.rsc rd ra rb) s rd (circularBit (s.x ra) (-val (s.x rb)))) ∧
    (rd.toNat + 2 ≤ 128 → ra.toNat + 2 ≤ 128 →
      setsPairBits (.dlsc rd ra rb) s rd (circularBit (s.pair ra) (val (s.x rb))) ∧
      setsPairBits (.drsc rd ra rb) s rd (circularBit (s.pair ra) (-val (s.x rb))))

/-- LSL, RSL, DLSL, DRSL (R151, R153): each bit is the bit the signed count away, 0 where there is none; no flag is
written. -/
def Obligations.LogicalShiftResult : Prop :=
  ∀ (s : State) (rd ra rb : GrsAddr),
    (setsBits (.lsl rd ra rb) s rd (logicalBit (s.x ra) (val (s.x rb))) ∧
      setsBits (.rsl rd ra rb) s rd (logicalBit (s.x ra) (-val (s.x rb)))) ∧
    (rd.toNat + 2 ≤ 128 → ra.toNat + 2 ≤ 128 →
      setsPairBits (.dlsl rd ra rb) s rd (logicalBit (s.pair ra) (val (s.x rb))) ∧
      setsPairBits (.drsl rd ra rb) s rd (logicalBit (s.pair ra) (-val (s.x rb))))

/-- LSA, RSA, DLSA, DRSA (R151, R154, R155): the sign bit stays, a right shift brings in the sign, a left shift the
fill of the parameter `AlgLeftFill`; no flag is written. -/
def Obligations.AlgebraicShiftResult : Prop :=
  ∀ (s : State) (rd ra rb : GrsAddr),
    let fill := s.cfg.algLeftFill
    (setsBits (.lsa rd ra rb) s rd (algebraicBit fill (s.x ra) (val (s.x rb))) ∧
      setsBits (.rsa rd ra rb) s rd (algebraicBit fill (s.x ra) (-val (s.x rb)))) ∧
    (rd.toNat + 2 ≤ 128 → ra.toNat + 2 ≤ 128 →
      setsPairBits (.dlsa rd ra rb) s rd (algebraicBit fill (s.pair ra) (val (s.x rb))) ∧
      setsPairBits (.drsa rd ra rb) s rd (algebraicBit fill (s.pair ra) (-val (s.x rb))))

/-- R156: the laws of the shifts, for both widths, every value and every count. -/
def Obligations.ShiftLaws : Prop :=
  ∀ N, N = 36 ∨ N = 72 → ∀ (v : BitVec N) (n : Nat) (fill : AlgLeftFill),
    circL v N = v ∧ circR (circL v n) n = v ∧ (N ≤ n → logL v n = 0 ∧ logR v n = 0) ∧
    (algL fill v n).msb = v.msb ∧ (algR v n).msb = v.msb ∧
    (circL v 0 = v ∧ circR v 0 = v ∧ logL v 0 = v ∧ logR v 0 = v ∧ algL fill v 0 = v ∧ algR v 0 = v)

/-- R154, R155, at both widths: an algebraic right shift divides the value, truncating toward zero; with the fill `sign` a
left shift whose magnitude fits multiplies it. -/
def Obligations.AlgebraicShiftScales : Prop :=
  (∀ (v : Word) (n : Nat), val (algR v n) = (val v).tdiv (2 ^ n)) ∧
  (∀ (v : DWord) (n : Nat), val (algR v n) = (val v).tdiv (2 ^ n)) ∧
  (∀ (v : Word) (n : Nat), (val v * 2 ^ n).natAbs ≤ 2 ^ 35 - 1 → val (algL .sign v n) = val v * 2 ^ n) ∧
  ∀ (v : DWord) (n : Nat), (val v * 2 ^ n).natAbs ≤ 2 ^ 71 - 1 → val (algL .sign v n) = val v * 2 ^ n

/-! Fields and characters (43_field_char.md) -/

/-- EXTS, DEXTS (R180, R190, R191): where the field's sign bit is set the higher bits become 1, else the value is as it
was; no flag is written. -/
def Obligations.SignExtendResult : Prop :=
  ∀ (s : State) (rd ra : GrsAddr) (n : BitVec 7), 1 ≤ n.toNat →
    (n.toNat ≤ 36 → setsBits (.exts rd ra n) s rd
      (fun k => (s.x ra).getLsbD k || (decide (n.toNat ≤ k) && (s.x ra).getLsbD (n.toNat - 1)))) ∧
    (n.toNat ≤ 72 → rd.toNat + 2 ≤ 128 → ra.toNat + 2 ≤ 128 → setsPairBits (.dexts rd ra n) s rd
      (fun k => (s.pair ra).getLsbD k || (decide (n.toNat ≤ k) && (s.pair ra).getLsbD (n.toNat - 1))))

/-- FLDX (R92, R182, R192): the field's bits, and above them 0 or copies of the field's top bit. -/
def Obligations.FieldExtractResult : Prop :=
  ∀ (s : State) (rd ra : GrsAddr) (j : BitVec 4) (qw : Bool) (low len : Nat) (signed : Bool),
    (partialFields qw)[j.toNat]? = some (low, len, signed) →
    setsBits (.fldx rd ra j qw) s rd
      (fun k => if k < len then (s.x ra).getLsbD (low + k) else signed && (s.x ra).getLsbD (low + len - 1))

/-- FLDI (R92, R183, R193): the field comes from `ra`, every other bit from `rb`; U and XU are `BadCommand`. -/
def Obligations.FieldInsertResult : Prop :=
  ∀ (s : State) (rd ra rb : GrsAddr) (j : BitVec 4) (qw : Bool) (low len : Nat) (signed : Bool),
    (partialFields qw)[j.toNat]? = some (low, len, signed) →
    (j.toNat < 14 → setsBits (.fldi rd ra rb j qw) s rd
      (fun k => if low ≤ k ∧ k < low + len then (s.x ra).getLsbD (k - low) else (s.x rb).getLsbD k)) ∧
    (14 ≤ j.toNat → exec (.fldi rd ra rb j qw) s = .fault (.badCommand s.command))

/-- PACKA, PACKF (R184, R185, R194, R196): the codes supplied from the left, then the pad. -/
def Obligations.PackResult : Prop :=
  ∀ (s : State) (rd ra : GrsAddr) (k : BitVec 7),
    (ra.toNat + min k.toNat 4 ≤ 128 → setsBits (.packa rd ra k) s rd (fun b =>
      (if 3 - b / 9 < k.toNat then s.x (grsPlus ra (3 - b / 9)) else (0o040 : Word)).getLsbD (b % 9))) ∧
    (ra.toNat + min k.toNat 6 ≤ 128 → setsBits (.packf rd ra k) s rd (fun b =>
      (if 5 - b / 6 < k.toNat then s.x (grsPlus ra (5 - b / 6)) else (0o05 : Word)).getLsbD (b % 6)))

/-- UNPKA, UNPKF (R184, R185, R195, R197): the quarters or sixths of the word, from the left, in rising registers. -/
def Obligations.UnpackResult : Prop :=
  ∀ (s : State) (rd ra : GrsAddr),
    let w := s.x ra
    (rd.toNat + 4 ≤ 128 →
      completesTo (.unpka rd ra) s
        [(rd, w >>> 27 &&& 0o777), (grsPlus rd 1, w >>> 18 &&& 0o777), (grsPlus rd 2, w >>> 9 &&& 0o777),
         (grsPlus rd 3, w &&& 0o777)] s.stat) ∧
    (rd.toNat + 6 ≤ 128 →
      completesTo (.unpkf rd ra) s
        [(rd, w >>> 30 &&& 0o77), (grsPlus rd 1, w >>> 24 &&& 0o77), (grsPlus rd 2, w >>> 18 &&& 0o77),
         (grsPlus rd 3, w >>> 12 &&& 0o77), (grsPlus rd 4, w >>> 6 &&& 0o77), (grsPlus rd 5, w &&& 0o77)] s.stat)

/-- R186, R187: strings written to `W` words and read back come back padded with spaces or cut to the words' length, a
character without a Fieldata code as a space; a string with a character above 0o777 is refused whatever `W` is (log
entry 21). -/
def Obligations.StringConversions : Prop :=
  ∀ (cs : List Char) (W : Nat),
    ((∀ c ∈ cs, c.toNat ≤ 0o777) → ∃ ws, toAsciiWords cs W = .ok ws ∧ ws.length = W ∧
      fromAsciiWords ws = (cs ++ List.replicate (4 * W) ' ').take (4 * W)) ∧
    ((∃ c ∈ cs, 0o777 < c.toNat) → ∃ n, 0o777 < n ∧ toAsciiWords cs W = .error (.wideCharacter n)) ∧
    (toFieldataWords cs W).length = W ∧
    fromFieldataWords (toFieldataWords cs W) =
      ((cs ++ List.replicate (6 * W) ' ').take (6 * W)).map (fun c => if c ∈ fieldataTable then c else ' ')

/-! Register file (46_register_file.md) -/

/-- MOV, LDI, RDDR, RDPAR, RDKEY, RDSTAT (R300 to R302, R304, R306, R308): the copy, for every register, no flag written. -/
def Obligations.RegisterReadResult : Prop :=
  ∀ (s : State) (rd ra : GrsAddr) (lit : Word),
    completesTo (.mov rd ra) s [(rd, s.x ra)] s.stat ∧ completesTo (.ldi rd lit) s [(rd, lit)] s.stat ∧
    completesTo (.rddr rd) s [(rd, s.dr)] s.stat ∧ completesTo (.rdpar rd) s [(rd, s.par)] s.stat ∧
    completesTo (.rdkey rd) s [(rd, BitVec.ofNat 36 s.key.toNat)] s.stat ∧
    completesTo (.rdstat rd) s
      [(rd, BitVec.ofNat 36 (s.stat.c.toNat * 8 + s.stat.o.toNat * 4 + s.stat.d.toNat * 2 + s.stat.u.toNat))] s.stat

/-- WRDR, WRPAR, WRKEY, UPDF (R303, R305, R307, R309): the register written and marked so, the others and everything else
as they were; UPDF copies three flags to three bits of DR. -/
def Obligations.SpecialWriteResult : Prop :=
  ∀ (s : State) (ra : GrsAddr),
    let kept (t : State) : Prop := grsKept [] s t ∧ brKept [] s t ∧ storageKept [] s t ∧ samePorts s t ∧
      t.stat = s.stat ∧ t.draws = s.draws
    (∃ t, exec (.wrdr ra) s = .next t ∧ t.dr = s.x ra ∧ t.par = s.par ∧ t.key = s.key ∧
      t.written = { s.written with dr := true } ∧ kept t) ∧
    (∃ t, exec (.wrpar ra) s = .next t ∧ t.par = s.x ra ∧ t.dr = s.dr ∧ t.key = s.key ∧
      t.written = { s.written with par := true } ∧ kept t) ∧
    (∃ t, exec (.wrkey ra) s = .next t ∧ t.key.toNat = (s.x ra).toNat % 2 ^ 18 ∧ t.dr = s.dr ∧ t.par = s.par ∧
      t.written = { s.written with key := true } ∧ kept t) ∧
    ∃ t, exec .updf s = .next t ∧ t.par = s.par ∧ t.key = s.key ∧ t.written = { s.written with dr := true } ∧ kept t ∧
      ∀ k < 36, t.dr.getLsbD k = if k = 17 then s.stat.c else if k = 16 then s.stat.o else if k = 12 then s.stat.d
        else s.dr.getLsbD k

/-- XINC, XDEC (R310, R311): XM becomes the low bits of the 36-bit sum or difference of the sign-extended XM and XI; XI
stays, and no flag is written. -/
def Obligations.IndexStepResult : Prop :=
  ∀ (s : State) (rd : GrsAddr),
    let v := s.x rd
    let xi18 : BitVec 18 := v.extractLsb' 18 18
    let xm18 : BitVec 18 := v.extractLsb' 0 18
    let xi12 : BitVec 12 := v.extractLsb' 24 12
    let xm24 : BitVec 24 := v.extractLsb' 0 24
    (∃ w, completesTo (.xinc rd .std) s [(rd, w)] s.stat ∧ w.extractLsb' 18 18 = xi18 ∧
      w.extractLsb' 0 18 = (addN (xm18.signExtend 36) (xi18.signExtend 36)).extractLsb' 0 18) ∧
    (∃ w, completesTo (.xdec rd .std) s [(rd, w)] s.stat ∧ w.extractLsb' 18 18 = xi18 ∧
      w.extractLsb' 0 18 = (addN (xm18.signExtend 36) (~~~(xi18.signExtend 36))).extractLsb' 0 18) ∧
    (∃ w, completesTo (.xinc rd .exec24) s [(rd, w)] s.stat ∧ w.extractLsb' 24 12 = xi12 ∧
      w.extractLsb' 0 24 = (addN (xm24.signExtend 36) (xi12.signExtend 36)).extractLsb' 0 24) ∧
    ∃ w, completesTo (.xdec rd .exec24) s [(rd, w)] s.stat ∧ w.extractLsb' 24 12 = xi12 ∧
      w.extractLsb' 0 24 = (addN (xm24.signExtend 36) (~~~(xi12.signExtend 36))).extractLsb' 0 24

/-- GRSA (R312): the address of the A, X or R register by the register set of DR; kind 3 is `BadCommand`. -/
def Obligations.DesignatorResult : Prop :=
  ∀ (s : State) (rd : GrsAddr) (n : BitVec 4),
    let e := s.dr.getLsbD 18
    completesTo (.grsa rd 0 n) s [(rd, BitVec.ofNat 36 ((if e then 108 else 12) + n.toNat))] s.stat ∧
    completesTo (.grsa rd 1 n) s [(rd, BitVec.ofNat 36 ((if e then 96 else 0) + n.toNat))] s.stat ∧
    completesTo (.grsa rd 2 n) s [(rd, BitVec.ofNat 36 ((if e then 80 else 64) + n.toNat))] s.stat ∧
    exec (.grsa rd 3 n) s = .fault (.badCommand s.command)

/-! Translation and protection (44_translation.md) -/

/-- XLT, XLTN (R245 to R247, R250 to R254): where the range lies within the limits and the selected set has the bit the
intent needs, the absolute address in two words; storage is not touched. -/
def Obligations.TranslateResult : Prop :=
  ∀ (s : State) (rd ra rb : GrsAddr) (k : BrNum) (intent : BitVec 2), intent ≠ 3 → rd.toNat + 2 ≤ 128 →
    let b := s.b k
    let rel := (s.x ra).toNat
    let p := selectedPerms b s.key
    let out := [(rd, BitVec.ofNat 36 (b.base.upi.toNat * 2 ^ 18 + b.base.seg.toNat)),
      (grsPlus rd 1, BitVec.ofNat 36 (b.base.off + rel))]
    (if intent = 2 then p.write else p.read) = true →
    (inLimits b rel 1 → completesTo (.xlt rd ra k intent) s out s.stat) ∧
    (s.x rb ≠ 0 → inLimits b rel (s.x rb).toNat → completesTo (.xltn rd ra rb k intent) s out s.stat)

/-- R248, R249, R252: an access outside the limits is the limits violation, whatever the permissions are. -/
def Obligations.LimitsCheckedFirst : Prop :=
  ∀ (s : State) (rd ra rb : GrsAddr) (k : BrNum) (intent : BitVec 2),
    let b := s.b k
    let rel := (s.x ra).toNat
    let violation (fetch : Bool) : Result := .fault (.refViol .limits fetch k (s.x ra))
    (¬inLimits b rel 1 → exec (.ld rd ra k) s = violation false ∧ exec (.st ra rb k) s = violation false ∧
      (intent ≠ 3 → rd.toNat + 2 ≤ 128 → exec (.xlt rd ra k intent) s = violation (intent = 0))) ∧
    (¬inLimits b rel 2 → (rd.toNat + 2 ≤ 128 → exec (.dld rd ra k) s = violation false) ∧
      (rb.toNat + 2 ≤ 128 → exec (.dst ra rb k) s = violation false)) ∧
    (¬inLimits b rel (s.x rb).toNat → intent ≠ 3 → rd.toNat + 2 ≤ 128 → s.x rb ≠ 0 →
      exec (.xltn rd ra rb k intent) s = violation (intent = 0))

/-- R245, R246, R249, R252: an access within the limits whose selected set lacks the bit it needs is the read or write
violation; a fetch needs the read bit. -/
def Obligations.PermissionViolation : Prop :=
  ∀ (s : State) (rd ra rb : GrsAddr) (k : BrNum) (intent : BitVec 2),
    let b := s.b k
    let rel := (s.x ra).toNat
    let p := selectedPerms b s.key
    let noRead : Result := .fault (.refViol .read false k (s.x ra))
    let noWrite : Result := .fault (.refViol .write false k (s.x ra))
    (p.read = false → (inLimits b rel 1 → exec (.ld rd ra k) s = noRead) ∧
      (inLimits b rel 2 → rd.toNat + 2 ≤ 128 → exec (.dld rd ra k) s = noRead)) ∧
    (p.write = false → (inLimits b rel 1 → exec (.st ra rb k) s = noWrite) ∧
      (inLimits b rel 2 → rb.toNat + 2 ≤ 128 → exec (.dst ra rb k) s = noWrite)) ∧
    (intent ≠ 3 → rd.toNat + 2 ≤ 128 → (if intent = 2 then p.write else p.read) = false →
      let no : Result := .fault (.refViol (if intent = 2 then .write else .read) (intent = 0) k (s.x ra))
      (inLimits b rel 1 → exec (.xlt rd ra k intent) s = no) ∧
      (s.x rb ≠ 0 → inLimits b rel (s.x rb).toNat → exec (.xltn rd ra rb k intent) s = no))

/-- LD, DLD (R62, R71, R72, R255, R257): the words at `base + rel` on, the first in `rd`; a word that another agent may
write is a draw (a free value, log entry 9). -/
def Obligations.LoadResult : Prop :=
  ∀ (s : State) (rd ra : GrsAddr) (k : BrNum),
    let b := s.b k
    let a := addrPlus b.base (s.x ra).toNat
    let word (i : Nat) : Word := if s.sharedWord (addrPlus a i) then Config.foreignDraw (s.draws + i)
      else s.mem.read (addrPlus a i)
    (selectedPerms b s.key).read = true →
    (inLimits b (s.x ra).toNat 1 → allPresent s a 1 →
      ∃ t, exec (.ld rd ra k) s = .next t ∧ t.x rd = word 0 ∧ t.stat = s.stat ∧ framed [rd] 1 s t) ∧
    (inLimits b (s.x ra).toNat 2 → allPresent s a 2 → rd.toNat + 2 ≤ 128 →
      ∃ t, exec (.dld rd ra k) s = .next t ∧ t.x rd = word 0 ∧ t.x (grsPlus rd 1) = word 1 ∧ t.stat = s.stat ∧
        framed [rd, grsPlus rd 1] 2 s t)

/-- ST, DST (R63, R64, R256, R258): the words at `base + rel` on hold the data, every other storage word and everything
else is as it was. -/
def Obligations.StoreResult : Prop :=
  ∀ (s : State) (ra rb : GrsAddr) (k : BrNum), s.memInv = true →
    let b := s.b k
    let a := addrPlus b.base (s.x ra).toNat
    (selectedPerms b s.key).write = true →
    (inLimits b (s.x ra).toNat 1 → allPresent s a 1 →
      ∃ t, exec (.st ra rb k) s = .next t ∧ t.mem.read a = s.x rb ∧ storageKept [a] s t ∧ onlyStorage s t) ∧
    (inLimits b (s.x ra).toNat 2 → allPresent s a 2 → rb.toNat + 2 ≤ 128 →
      ∃ t, exec (.dst ra rb k) s = .next t ∧ t.mem.read a = s.x rb ∧ t.mem.read (addrPlus a 1) = s.x (grsPlus rb 1) ∧
        storageKept [a, addrPlus a 1] s t ∧ onlyStorage s t)

/-- R61, R240, R241, R277, R278, R285, R331, R336: whatever reads or writes storage is refused where its checks pass and a
word of it does not exist, the first such word named (log entry 22): LD, ST, DLD, DST after limits and permission,
BASEBD after the checks of level, index and table, RCSWR, RCSWRS, RCSPOP and VECRD after their limits. A refusal is no next
state: a push or a DST whose second word alone does not exist (n = 1) writes neither word. -/
def Obligations.AbsentWordRefused : Prop :=
  ∀ (s : State) (rd ra rb : GrsAddr) (k : BrNum) (tag : BitVec 2) (c : BitVec 6) (n : Nat),
    let b := s.b k
    let rel := (s.x ra).toNat
    let p := selectedPerms b s.key
    let l := (s.x ra).toNat / 2 ^ 33
    let bdi := (s.x ra).toNat / 2 ^ 18 % 2 ^ 15
    let table := s.b (BitVec.ofNat 5 (16 + l))
    let fp := (s.x 96).toNat % (if s.dr.getLsbD 28 then 2 ^ 24 else 2 ^ 18)
    let absent (a : AbsAddr) : Prop := allPresent s a n ∧ s.present (addrPlus a n) = false
    let refused (i : Instr) (a : AbsAddr) : Prop := exec i s = .refused (.noStorage (addrPlus a n))
    (absent (addrPlus b.base rel) →
      (n < 1 → inLimits b rel 1 → (p.read = true → refused (.ld rd ra k) (addrPlus b.base rel)) ∧
        (p.write = true → refused (.st ra rb k) (addrPlus b.base rel))) ∧
      (n < 2 → inLimits b rel 2 →
        (p.read = true → rd.toNat + 2 ≤ 128 → refused (.dld rd ra k) (addrPlus b.base rel)) ∧
        (p.write = true → rb.toNat + 2 ≤ 128 → refused (.dst ra rb k) (addrPlus b.base rel)))) ∧
    (n < 8 → (0 < l ∨ 32 ≤ bdi) → inLimits table (8 * bdi) 8 → absent (addrPlus table.base (8 * bdi)) →
      refused (.basebd ra rb k) (addrPlus table.base (8 * bdi))) ∧
    (n < 2 → inLimits (s.b 25) fp 2 → absent (addrPlus (s.b 25).base fp) →
      refused (.rcswrs tag) (addrPlus (s.b 25).base fp) ∧
      (ra.toNat + 2 ≤ 128 → refused (.rcswr ra) (addrPlus (s.b 25).base fp)) ∧
      (rd.toNat + 2 ≤ 128 → refused (.rcspop rd) (addrPlus (s.b 25).base fp))) ∧
    (n < 1 → inLimits (s.b 16) c.toNat 1 → absent (addrPlus (s.b 16).base c.toNat) →
      refused (.vecrd rd c) (addrPlus (s.b 16).base c.toNat))

/-- R65, R67, R241, R252: whatever the command, a storage word that it changes exists and lies within the limits of a
based register, and the selected set grants writing there unless the command pushes a frame on the RCS bank of B[25]. -/
def Obligations.StoresStayInLimits : Prop :=
  ∀ (i : Instr) (s t : State) (a : AbsAddr), exec i s = .next t → t.mem.read a ≠ s.mem.read a →
    s.present a = true ∧
    ∃ (k : BrNum) (rel : Nat), a = addrPlus (s.b k).base rel ∧ inLimits (s.b k) rel 1 ∧
      ((selectedPerms (s.b k) s.key).write = true ∨
        (k = 25 ∧ ((∃ ra, i = .rcswr ra) ∨ ∃ tag, i = .rcswrs tag)))

/-- LDBR, STBR (R231, R232, R259, R260): LDBR makes the base register the packet describes, `CanonicalVoid` for a void
flag or inverted limits; STBR writes the packet of the base register, the void flag alone for a void one; nothing else
changes. -/
def Obligations.BasePacketResult : Prop :=
  (∀ (s : State) (ra : GrsAddr) (k : BrNum), ra.toNat + 4 ≤ 128 →
    let p0 := s.x ra
    let p1 := s.x (grsPlus ra 1)
    let p2 := s.x (grsPlus ra 2)
    let large := p0.getLsbD 22
    let lower := p1.toNat / 2 ^ 27 * (if large then 32768 else 512)
    let upper := if large then p1.toNat % 2 ^ 27 * 64 + 63 else p1.toNat % 2 ^ 27
    ∃ t, exec (.ldbr ra k) s = .next t ∧
      t.b k = (if p0.getLsbD 20 = true ∨ upper < lower then BaseReg.canonicalVoid
        else ⟨false, ⟨p2.extractLsb' 18 18, p2.extractLsb' 0 18, (s.x (grsPlus ra 3)).toNat⟩, large, lower, upper,
          ⟨p0.extractLsb' 16 2, p0.extractLsb' 0 16⟩, ⟨p0.getLsbD 35, p0.getLsbD 34, p0.getLsbD 33⟩,
          ⟨p0.getLsbD 32, p0.getLsbD 31, p0.getLsbD 30⟩⟩) ∧
      grsKept [] s t ∧ specialsKept s t ∧ brKept [k] s t ∧ storageKept [] s t ∧ t.stat = s.stat ∧ samePorts s t ∧
      t.draws = s.draws) ∧
  ∀ (s : State) (rd : GrsAddr) (k : BrNum), rd.toNat + 4 ≤ 128 →
    let b := s.b k
    (b.void = true → completesTo (.stbr rd k) s
      [(rd, 0o000004_000000), (grsPlus rd 1, 0), (grsPlus rd 2, 0), (grsPlus rd 3, 0)] s.stat) ∧
    (b.void = false → completesTo (.stbr rd k) s
      [(rd, BitVec.ofNat 36 (b.gap.enter.toNat * 2 ^ 35 + b.gap.read.toNat * 2 ^ 34 + b.gap.write.toNat * 2 ^ 33 +
          b.sap.enter.toNat * 2 ^ 32 + b.sap.read.toNat * 2 ^ 31 + b.sap.write.toNat * 2 ^ 30 +
          b.large.toNat * 2 ^ 22 + b.lock.ring.toNat * 2 ^ 16 + b.lock.domain.toNat)),
       (grsPlus rd 1, BitVec.ofNat 36 ((b.lower / (if b.large then 32768 else 512)) % 2 ^ 9 * 2 ^ 27 +
          (if b.large then b.upper / 64 else b.upper) % 2 ^ 27)),
       (grsPlus rd 2, BitVec.ofNat 36 (b.base.upi.toNat * 2 ^ 18 + b.base.seg.toNat)),
       (grsPlus rd 3, BitVec.ofNat 36 b.base.off)] s.stat)

/-- R233, R234: which base registers and which packets survive a store and a load; a lower limit that is no multiple of
its unit does not. -/
def Obligations.PacketRoundTrip : Prop :=
  (∀ b : BaseReg, brOK b = true →
    (b.void = true ∨ (b.lower % (if b.large then 32768 else 512) = 0 ∧
      b.lower / (if b.large then 32768 else 512) < 2 ^ 9 ∧
      (if b.large then b.upper % 64 = 63 ∧ b.upper / 64 < 2 ^ 27 else b.upper < 2 ^ 27) ∧ b.base.off < 2 ^ 36)) →
    ∃ p0 p1 p2 p3, encodePacket b = [p0, p1, p2, p3] ∧ decodePacket p0 p1 p2 p3 = b) ∧
  (∀ (b : BaseReg) (p0 p1 p2 p3 : Word), b.void = false → b.lower % (if b.large then 32768 else 512) ≠ 0 →
    encodePacket b = [p0, p1, p2, p3] → decodePacket p0 p1 p2 p3 ≠ b) ∧
  ∀ p0 p1 p2 p3 : Word, p0 &&& 0o007757_000000 = 0 →
    (decodePacket p0 p1 p2 p3).void = false → encodePacket (decodePacket p0 p1 p2 p3) = [p0, p1, p2, p3]

/-- R222 to R224: decoding an encoded Bank Descriptor gives it back; encoding a decoded one clears the reserved bits of
word 0 and keeps every other bit; the reserved bits do not reach the record. -/
def Obligations.BankDescriptorRoundTrip : Prop :=
  (∀ r : BankDescriptor, r.abs.off < 2 ^ 36 → decodeBD (encodeBD r) = r) ∧
  ∀ w : Vector Word 8, encodeBD (decodeBD w) = w.set 0 (w[0] &&& ~~~0o006007_000000) ∧
    decodeBD (w.set 0 (w[0] &&& ~~~0o006007_000000)) = decodeBD w

/-- BASEBD (R105, R221, R230, R240, R241, R261): the base register of the descriptor's bank, moved up by the offset, from
the eight words read at `8·BDI` in the bank of B[16 + L]; no permission is checked. -/
def Obligations.BaseBankResult : Prop :=
  ∀ (s : State) (ra rb : GrsAddr) (k : BrNum),
    let l := (s.x ra).toNat / 2 ^ 33
    let bdi := (s.x ra).toNat / 2 ^ 18 % 2 ^ 15
    let table := s.b (BitVec.ofNat 5 (16 + l))
    let a := addrPlus table.base (8 * bdi)
    let w (i : Nat) : Word := s.readWord i (addrPlus a i)
    let large := (w 0).getLsbD 22
    let nL := (w 1).toNat / 2 ^ 27 * (if large then 32768 else 512)
    let nU := if large then (w 1).toNat % 2 ^ 27 * 64 + 63 else (w 1).toNat % 2 ^ 27
    let off := (s.x rb).toNat
    (0 < l ∨ 32 ≤ bdi) → inLimits table (8 * bdi) 8 → allPresent s a 8 → (w 0).getLsbD 23 = false →
    ∃ t, exec (.basebd ra rb k) s = .next t ∧
      t.b k = (if nU < off ∨ nU - off < nL - off then BaseReg.canonicalVoid
        else ⟨false, ⟨(w 2).extractLsb' 18 18, (w 2).extractLsb' 0 18, (w 3).toNat + off⟩, large, nL - off, nU - off,
          ⟨(w 0).extractLsb' 16 2, (w 0).extractLsb' 0 16⟩, ⟨(w 0).getLsbD 35, (w 0).getLsbD 34, (w 0).getLsbD 33⟩,
          ⟨(w 0).getLsbD 32, (w 0).getLsbD 31, (w 0).getLsbD 30⟩⟩) ∧
      grsKept [] s t ∧ specialsKept s t ∧ brKept [k] s t ∧ storageKept [] s t ∧ t.stat = s.stat ∧ samePorts s t ∧
      t.draws = s.draws + 8

/-- BASEBD's faults (R226, R240, R241, R261, R336) in their order: invalid level and BDI, descriptor outside its table,
general-fault flag; `AddrExc`, or `TermAddrExc` while DR says that a fault is being handled. -/
def Obligations.BaseBankFaults : Prop :=
  ∀ (s : State) (ra rb : GrsAddr) (k : BrNum),
    let l : BitVec 3 := BitVec.ofNat 3 ((s.x ra).toNat / 2 ^ 33)
    let bdi : BitVec 15 := BitVec.ofNat 15 ((s.x ra).toNat / 2 ^ 18)
    let table := s.b (BitVec.ofNat 5 (16 + l.toNat))
    let a := addrPlus table.base (8 * bdi.toNat)
    let fault (kind : AddrKind) : Result :=
      .fault (if s.dr.getLsbD 29 then .termAddrExc kind l bdi else .addrExc kind l bdi)
    if l = 0 ∧ bdi.toNat < 32 then exec (.basebd ra rb k) s = fault .invalidLBDI
    else (¬inLimits table (8 * bdi.toNat) 8 → exec (.basebd ra rb k) s = fault .outsideTable) ∧
      (inLimits table (8 * bdi.toNat) 8 → allPresent s a 8 → (s.readWord 0 a).getLsbD 23 = true →
        exec (.basebd ra rb k) s = fault .generalFault)

/-- EA (R90, R262 to R264): the relative address and base-register number by mode, the index register stepped where h
asks for it, STAT.u for a basic-mode indirect address; the pair's write remains where it overlaps the index register. -/
def Obligations.EffectiveAddressResult : Prop :=
  ∀ (s : State) (rd ra : GrsAddr), rd.toNat + 2 ≤ 128 →
    let iw := s.x ra
    let basic := s.dr.getLsbD 19
    let execSet := s.dr.getLsbD 18
    let w24 := !basic && (s.dr.getLsbD 28 && execSet)
    let x := iw.toNat / 2 ^ 18 % 2 ^ 4
    let xa : GrsAddr := BitVec.ofNat 7 ((if execSet then 96 else 0) + x)
    let disp : Word := BitVec.ofNat 36 (if basic then iw.toNat % 2 ^ 16 else iw.toNat % 2 ^ 12)
    let xm : Word := if w24 then ((s.x xa).extractLsb' 0 24).signExtend 36 else ((s.x xa).extractLsb' 0 18).signExtend 36
    let sum : Word := if x = 0 then disp else addN disp xm
    let steps := decide (x ≠ 0) && iw.getLsbD 17
    ∃ t, exec (.ea rd ra) s = .next t ∧
      (t.x rd).toNat = sum.toNat % (if w24 then 2 ^ 24 else 2 ^ 18) ∧
      (t.x (grsPlus rd 1)).toNat = (if basic then 0 else iw.toNat / 2 ^ 12 % 2 ^ 4 + 16 * (iw.getLsbD 16).toNat) ∧
      (steps = true → xa ≠ rd → xa ≠ grsPlus rd 1 → t.x xa = xIncrement (s.x xa) (if w24 then .exec24 else .std)) ∧
      t.stat = { s.stat with u := basic && iw.getLsbD 16 } ∧
      framed ([rd, grsPlus rd 1] ++ (if steps then [xa] else [])) 0 s t

/-! Dispatch and the Return Control Stack (45_dispatch_rcs.md) -/

/-- DISP (R270 to R274, R280): the handler id and charge of the slot the mode's tree gives for f, then j, then a; an
unpopulated slot at any level is `InvalidInstruction` with the instruction word. -/
def Obligations.DispatchResult : Prop :=
  ∀ (s : State) (rd ra : GrsAddr), rd.toNat + 2 ≤ 128 →
    let iw := s.x ra
    let tree := if s.dr.getLsbD 19 then s.cfg.dispatch.basic else s.cfg.dispatch.extended
    let f := iw.toNat / 2 ^ 30
    let j := iw.toNat / 2 ^ 26 % 2 ^ 4
    let a := iw.toNat / 2 ^ 22 % 2 ^ 4
    let found (h : HandlerId) : Prop := completesTo (.disp rd ra) s
      [(rd, BitVec.ofNat 36 h.val), (grsPlus rd 1, BitVec.ofNat 36 (chargeOf s.cfg.qCharge h).val)] s.stat
    let missed : Prop := exec (.disp rd ra) s = .fault (.invalidInstruction iw)
    (∀ h, tree[f]? = some (.handler h) → found h) ∧ (tree[f]? = some .none → missed) ∧
    ∀ t2, tree[f]? = some (.sub t2) →
      (∀ h, t2[j]? = some (.handler h) → found h) ∧ (t2[j]? = some .none → missed) ∧
      ∀ t3, t2[j]? = some (.sub t3) →
        (∀ h, t3[a]? = some (.handler h) → found h) ∧ (t3[a]? = some .none → missed)

/-- RCSCHK (R275, R276, R279, R281): the frame pointer goes down by 2, in EX0 and in `rd`, which is written last; below
the lower limit or on a void register it is the overflow with the attempted frame pointer. -/
def Obligations.PushCheckResult : Prop :=
  ∀ (s : State) (rd : GrsAddr),
    let fp := (s.x 96).toNat % (if s.dr.getLsbD 28 then 2 ^ 24 else 2 ^ 18)
    ((s.b 25).void = false → (s.b 25).lower + 2 ≤ fp →
      ∃ t, exec (.rcschk rd) s = .next t ∧ (t.x rd).toNat = fp - 2 ∧
        (rd ≠ 96 → (t.x 96).toNat = (s.x 96).toNat - 2) ∧ t.stat = s.stat ∧ framed [rd, 96] 0 s t) ∧
    (((s.b 25).void = true ∨ fp < (s.b 25).lower + 2) →
      exec (.rcschk rd) s = .fault (.rcsFault .overflow (oc 36 ((fp : Int) - 2))))

/-- RCSWR, RCSWRS (R104, R241, R277, R282, R283): the frame in storage at the frame pointer, the pointer unmoved, no
permission checked; a frame outside the limits is the limits violation of B[25]. -/
def Obligations.PushFrameResult : Prop :=
  ∀ (s : State) (ra : GrsAddr) (tag : BitVec 2), s.memInv = true →
    let fp := (s.x 96).toNat % (if s.dr.getLsbD 28 then 2 ^ 24 else 2 ^ 18)
    let a := addrPlus (s.b 25).base fp
    let pushed (i : Instr) (f0 f1 : Word) : Prop := ∃ t, exec i s = .next t ∧ t.mem.read a = f0 ∧
      t.mem.read (addrPlus a 1) = f1 ∧ storageKept [a, addrPlus a 1] s t ∧ onlyStorage s t
    let f0 := BitVec.ofNat 36 (s.par.toNat / 2 ^ 18 * 2 ^ 18 + (s.par.toNat % 2 ^ 18 + 1) % 2 ^ 18)
    let f1 := BitVec.ofNat 36 (tag.toNat * 2 ^ 34 + s.dr.toNat / 2 ^ 18 % 2 ^ 6 * 2 ^ 24 + s.key.toNat)
    (inLimits (s.b 25) fp 2 → allPresent s a 2 →
      pushed (.rcswrs tag) f0 f1 ∧ (ra.toNat + 2 ≤ 128 → pushed (.rcswr ra) (s.x ra) (s.x (grsPlus ra 1)))) ∧
    (¬inLimits (s.b 25) fp 2 →
      exec (.rcswrs tag) s = .fault (.refViol .limits false 25 (BitVec.ofNat 36 fp)) ∧
      (ra.toNat + 2 ≤ 128 → exec (.rcswr ra) s = .fault (.refViol .limits false 25 (BitVec.ofNat 36 fp))))

/-- RCSPOP (R278, R279, R284): the frame at the frame pointer in the pair, then EX0 with the pointer up by 2 unless the
pair overwrites it; past the upper limit or on a void register it is the underflow, below the lower the limits
violation. -/
def Obligations.PopResult : Prop :=
  ∀ (s : State) (rd : GrsAddr), rd.toNat + 2 ≤ 128 →
    let size := if s.dr.getLsbD 28 then 2 ^ 24 else 2 ^ 18
    let fp := (s.x 96).toNat % size
    let b := s.b 25
    let a := addrPlus b.base fp
    (inLimits b fp 2 → allPresent s a 2 →
      ∃ t, exec (.rcspop rd) s = .next t ∧ t.x rd = s.readWord 0 a ∧ t.x (grsPlus rd 1) = s.readWord 1 (addrPlus a 1) ∧
        (rd ≠ 96 → grsPlus rd 1 ≠ 96 → (t.x 96).toNat = (s.x 96).toNat / size * size + (fp + 2) % size) ∧
        t.stat = s.stat ∧ framed [rd, grsPlus rd 1, 96] 2 s t) ∧
    ((b.void = true ∨ b.upper + 1 < fp + 2) →
      exec (.rcspop rd) s = .fault (.rcsFault .underflow (oc 36 ((fp : Int) + 2)))) ∧
    (b.void = false → fp + 2 ≤ b.upper + 1 → fp < b.lower →
      exec (.rcspop rd) s = .fault (.refViol .limits false 25 (BitVec.ofNat 36 fp)))

/-- R284: a push-check, a raw push and a pop give back the pushed frame and leave EX0 as it was. -/
def Obligations.PushPopRoundTrip : Prop :=
  ∀ (s : State) (rc ra rd : GrsAddr), s.memInv = true → ra.toNat + 2 ≤ 128 → rd.toNat + 2 ≤ 128 →
    rc ≠ 96 → rd ≠ 96 → grsPlus rd 1 ≠ 96 →
    let fp := (s.x 96).toNat % (if s.dr.getLsbD 28 then 2 ^ 24 else 2 ^ 18)
    let a := addrPlus (s.b 25).base (fp - 2)
    (s.b 25).void = false → (s.b 25).lower + 2 ≤ fp → fp ≤ (s.b 25).upper + 1 → allPresent s a 2 →
    s.sharedWord a = false → s.sharedWord (addrPlus a 1) = false →
    ∃ s1 s2 s3, exec (.rcschk rc) s = .next s1 ∧ exec (.rcswr ra) s1 = .next s2 ∧ exec (.rcspop rd) s2 = .next s3 ∧
      s3.x rd = s1.x ra ∧ s3.x (grsPlus rd 1) = s1.x (grsPlus ra 1) ∧ s3.x 96 = s.x 96

/-- VECRD (R70, R241, R285): entry c of the vector area of B[16] as it is stored; outside the limits it is the limits
violation. -/
def Obligations.VectorReadResult : Prop :=
  ∀ (s : State) (rd : GrsAddr) (c : BitVec 6),
    let a := addrPlus (s.b 16).base c.toNat
    (inLimits (s.b 16) c.toNat 1 → allPresent s a 1 →
      ∃ t, exec (.vecrd rd c) s = .next t ∧
        t.x rd = (if s.sharedWord a then Config.foreignDraw s.draws else s.mem.read a) ∧ t.stat = s.stat ∧
        framed [rd] 1 s t) ∧
    (¬inLimits (s.b 16) c.toNat 1 →
      exec (.vecrd rd c) s = .fault (.refViol .limits false 16 (BitVec.ofNat 36 c.toNat)))

/-! Faults and unwritten registers (60_exceptions.md, 10_state.md) -/

/-- R330, R332: the two words of each fault's record. -/
def Obligations.FaultRecordWords : Prop :=
  let words (f : Fault) : Nat × Word := (f.record.i0.toNat, f.record.i1)
  let lbdi (l : BitVec 3) (bdi : BitVec 15) : Word := BitVec.ofNat 36 (l.toNat * 2 ^ 33 + bdi.toNat * 2 ^ 18)
  let addrSub (kind : AddrKind) : Nat := match kind with
    | .invalidLBDI => 1
    | .outsideTable => 2
    | .generalFault => 3
  (∀ kind fetch br w, words (.refViol kind fetch br w) = (8 * 2 ^ 30 + (match kind with
      | .limits => 1
      | .read => 2
      | .write => 3) * 2 ^ 22 + fetch.toNat * 2 ^ 21 + br.toNat * 2 ^ 16, w)) ∧
  (∀ kind l bdi, words (.addrExc kind l bdi) =
    (9 * 2 ^ 30 + addrSub kind * 2 ^ 22 + (16 + l.toNat) * 2 ^ 16, lbdi l bdi)) ∧
  (∀ kind l bdi, words (.termAddrExc kind l bdi) =
    (10 * 2 ^ 30 + addrSub kind * 2 ^ 22 + (16 + l.toNat) * 2 ^ 16, lbdi l bdi)) ∧
  (∀ w, words (.rcsFault .overflow w) = (11 * 2 ^ 30 + 1 * 2 ^ 22 + 25 * 2 ^ 16, w)) ∧
  (∀ w, words (.rcsFault .underflow w) = (11 * 2 ^ 30 + 2 * 2 ^ 22 + 25 * 2 ^ 16, w)) ∧
  (∀ w, words (.invalidInstruction w) = (14 * 2 ^ 30, w)) ∧
  (∀ w, words (.badCommand w) = (14 * 2 ^ 30 + 1 * 2 ^ 22, w)) ∧ words .arithmeticException = (16 * 2 ^ 30, 0)

/-- R25, R29, R32, R34, R336: when the spec's outcome is `Refused(Unwritten)`, and that what unwritten registers hold never
shows. An illegal K or group is `BadCommand` first. A legal command is refused exactly if a GRS location that its fields
name as a source is unwritten, or its checks reach a read of an unwritten DR, PAR, KEY, EX0 or index register: a
translation reads KEY only where the limits pass, XLTN only for a count that is not 0. A command that is not refused has the
outcome of its meaning, and a step is refused with its command. Two states that agree on everything but unwritten registers
(whose values are the model's, log entries 1 to 5) give the same fault, the same refusal, or next states that agree on
everything but unwritten registers. -/
def Obligations.UnwrittenNeverShows : Prop :=
  (∀ (s : State) (rd ra rb : GrsAddr) (k : BrNum) (n : BitVec 7) (j : BitVec 4) (c : BitVec 6) (qw : Bool)
      (lay : XLayout) (two : BitVec 2) (lit : Word),
    let un (r : GrsAddr) : Prop := s.unwrittenX r = true
    let un2 (r : GrsAddr) : Prop := un r ∨ un (grsPlus r 1)
    let dr : Prop := s.written.dr = false
    let par : Prop := s.written.par = false
    let key : Prop := s.written.key = false
    let keyAt (words : Nat) : Prop := inLimits (s.b k) (s.x ra).toNat words ∧ key
    let x := (s.x ra).toNat / 2 ^ 18 % 2 ^ 4
    let index : Prop := x ≠ 0 ∧ un (BitVec.ofNat 7 ((if s.dr.getLsbD 18 then 96 else 0) + x))
    let refusedIf (is : List Instr) (p : Prop) : Prop :=
      ∀ i ∈ is, i.wellFormed = true → (specExec i s = .refused .unwritten ↔ p)
    refusedIf [.add rd ra rb, .sub rd ra rb, .mul rd ra rb, .muls rd ra rb, .divs rd ra rb, .cmp rd ra rb, .and rd ra rb,
      .or rd ra rb, .xor rd ra rb, .lsc rd ra rb, .rsc rd ra rb, .lsl rd ra rb, .rsl rd ra rb, .lsa rd ra rb,
      .rsa rd ra rb, .fldi rd ra rb j qw] (un ra ∨ un rb) ∧
    refusedIf [.dadd rd ra rb, .dsub rd ra rb, .dcmp rd ra rb, .dand rd ra rb, .dor rd ra rb, .dxor rd ra rb]
      (un2 ra ∨ un2 rb) ∧
    refusedIf [.div rd ra rb, .dlsc rd ra rb, .drsc rd ra rb, .dlsl rd ra rb, .drsl rd ra rb, .dlsa rd ra rb,
      .drsa rd ra rb] (un2 ra ∨ un rb) ∧
    refusedIf [.neg rd ra, .exts rd ra n, .fldx rd ra j qw, .unpka rd ra, .unpkf rd ra, .mov rd ra, .wrdr ra, .wrpar ra,
      .wrkey ra] (un ra) ∧
    refusedIf [.dneg rd ra, .dexts rd ra n] (un2 ra) ∧
    refusedIf [.packa rd ra n] (∃ i < min n.toNat 4, un (grsPlus ra i)) ∧
    refusedIf [.packf rd ra n] (∃ i < min n.toNat 6, un (grsPlus ra i)) ∧
    refusedIf [.ldi rd lit, .rdstat rd, .stbr rd k, .vecrd rd c] False ∧
    refusedIf [.rddr rd, .updf, .grsa rd two j] dr ∧ refusedIf [.rdpar rd] par ∧ refusedIf [.rdkey rd] key ∧
    refusedIf [.xinc rd lay, .xdec rd lay] (un rd) ∧
    refusedIf [.xlt rd ra k two, .ld rd ra k] (un ra ∨ keyAt 1) ∧
    refusedIf [.xltn rd ra rb k two] (un ra ∨ un rb ∨ (s.x rb ≠ 0 ∧ keyAt (s.x rb).toNat)) ∧
    refusedIf [.st ra rb k] (un ra ∨ un rb ∨ keyAt 1) ∧ refusedIf [.dld rd ra k] (un ra ∨ keyAt 2) ∧
    refusedIf [.dst ra rb k] (un ra ∨ un2 rb ∨ keyAt 2) ∧
    refusedIf [.ldbr ra k] (∃ i < 4, un (grsPlus ra i)) ∧ refusedIf [.basebd ra rb k] (un ra ∨ un rb ∨ dr) ∧
    refusedIf [.ea rd ra] (un ra ∨ dr ∨ index) ∧ refusedIf [.disp rd ra] (un ra ∨ dr) ∧
    refusedIf [.rcschk rd, .rcspop rd] (dr ∨ un 96) ∧ refusedIf [.rcswr ra] (un2 ra ∨ dr ∨ un 96) ∧
    refusedIf [.rcswrs two] (par ∨ dr ∨ key ∨ un 96)) ∧
  (∀ (i : Instr) (s : State), (i.wellFormed = false → specExec i s = .fault (.badCommand s.command)) ∧
    (specExec i s ≠ .refused .unwritten → specExec i s = exec i s) ∧ exec i s ≠ .refused .unwritten ∧
    (decode (s.cmds.drop s.cp) = .ok i →
      (specExec i s = .refused .unwritten → specStep s = .refused .unwritten) ∧
      (specExec i s ≠ .refused .unwritten → specStep s = step s))) ∧
  ∀ (i : Instr) (s t : State), agreeOnWritten s t → agreeOutcomes (specExec i s) (specExec i t)
end

