-- ==== Sys2Proof/Laws/Bits.lean ====
section
/-! SUPPORT. The laws of placed fields, word halves and single bits. -/

namespace Sys2Proof.Machine

theorem getLsbD_place {n w : Nat} (v : BitVec n) (p i : Nat) :
    (place w v p).getLsbD i = (decide (i < w) && !decide (i < p) && v.getLsbD (i - p)) := by
  unfold place
  rw [BitVec.getLsbD_shiftLeft, BitVec.getLsbD_setWidth]
  by_cases h : i < w
  · have : i - p < w := by omega
    simp [h, this]
  · simp [h]

theorem getElem_place {n w : Nat} (v : BitVec n) (p i : Nat) (h : i < w) :
    (place w v p)[i] = (!decide (i < p) && v.getLsbD (i - p)) := by
  rw [← BitVec.getLsbD_eq_getElem, getLsbD_place]
  simp [h]

theorem getLsbD_extract {n : Nat} (v : BitVec n) (q m i : Nat) :
    (v.extractLsb' q m).getLsbD i = (decide (i < m) && v.getLsbD (q + i)) := by
  simp

/-- A field read back from where it was placed. -/
theorem extract_place_self {n w : Nat} (v : BitVec n) (p : Nat) (h : p + n ≤ w) : (place w v p).extractLsb' p n = v := by
  apply BitVec.eq_of_getLsbD_eq
  intro i hi
  have h1 : p + i < w := by omega
  simp only [getLsbD_extract, getLsbD_place, hi, h1]
  simp

/-- A field placed above the bits read does not show. -/
theorem extract_place_above {n w : Nat} (v : BitVec n) (p q m : Nat) (h : q + m ≤ p) :
    (place w v p).extractLsb' q m = 0 := by
  apply BitVec.eq_of_getLsbD_eq
  intro i hi
  have h1 : q + i < p := by omega
  simp only [getLsbD_extract, getLsbD_place, h1]
  simp

/-- A field placed below the bits read does not show. -/
theorem extract_place_below {n w : Nat} (v : BitVec n) (p q m : Nat) (h : p + n ≤ q) :
    (place w v p).extractLsb' q m = 0 := by
  apply BitVec.eq_of_getLsbD_eq
  intro i hi
  have h1 : n ≤ q + i - p := by omega
  simp only [getLsbD_extract, getLsbD_place, BitVec.getLsbD_of_ge v _ h1]
  simp

/-- A field as a number. -/
theorem extract_toNat {n : Nat} (v : BitVec n) (q m : Nat) : (v.extractLsb' q m).toNat = v.toNat / 2 ^ q % 2 ^ m := by
  rw [BitVec.extractLsb'_toNat, Nat.shiftRight_eq_div_pow]

theorem extract_or {n : Nat} (a b : BitVec n) (q m : Nat) :
    (a ||| b).extractLsb' q m = a.extractLsb' q m ||| b.extractLsb' q m := by
  apply BitVec.eq_of_getLsbD_eq
  intro i _
  simp only [getLsbD_extract, BitVec.getLsbD_or]
  cases decide (i < m) <;> simp

@[simp] theorem hi_dw (h l : Word) : hi (dw h l) = h := by
  rw [hi, dw, extract_or, extract_place_self h 36 (by omega), extract_place_below l 0 36 36 (by omega)]
  simp

@[simp] theorem lo_dw (h l : Word) : lo (dw h l) = l := by
  rw [lo, dw, extract_or, extract_place_above h 36 0 36 (by omega), extract_place_self l 0 (by omega)]
  simp

@[simp] theorem dw_hi_lo (d : DWord) : dw (hi d) (lo d) = d := by
  apply BitVec.eq_of_getLsbD_eq
  intro i hi'
  simp only [dw, hi, lo, BitVec.getLsbD_or, getLsbD_place, getLsbD_extract]
  by_cases h : i < 36
  · simp [h, hi']
  · have h1 : i - 36 < 36 := by omega
    have h2 : 36 + (i - 36) = i := by omega
    simp [h, h1, h2, hi']

end Sys2Proof.Machine
end

