-- ==== Sys2Proof/Laws/Encoding.lean ====
section
/-! SUPPORT. The laws of the encodings: the fields of a command word, and the K field taken apart. -/

namespace Sys2Proof

open Sys2Proof.Machine

@[simp] theorem fOP_commandWord (op : BitVec 8) (rd ra rb : GrsAddr) (k : BitVec 7) :
    fOP (commandWord op rd ra rb k) = op := by
  simp [fOP, commandWord, extract_or, extract_place_self, extract_place_below]

@[simp] theorem fRD_commandWord (op : BitVec 8) (rd ra rb : GrsAddr) (k : BitVec 7) :
    fRD (commandWord op rd ra rb k) = rd := by
  simp [fRD, commandWord, extract_or, extract_place_self, extract_place_below, extract_place_above]

@[simp] theorem fRA_commandWord (op : BitVec 8) (rd ra rb : GrsAddr) (k : BitVec 7) :
    fRA (commandWord op rd ra rb k) = ra := by
  simp [fRA, commandWord, extract_or, extract_place_self, extract_place_below, extract_place_above]

@[simp] theorem fRB_commandWord (op : BitVec 8) (rd ra rb : GrsAddr) (k : BitVec 7) :
    fRB (commandWord op rd ra rb k) = rb := by
  simp [fRB, commandWord, extract_or, extract_place_self, extract_place_below, extract_place_above]

@[simp] theorem fK_commandWord (op : BitVec 8) (rd ra rb : GrsAddr) (k : BitVec 7) :
    fK (commandWord op rd ra rb k) = k := by
  simp [fK, commandWord, extract_or, extract_place_self, extract_place_above]

/-! The parts of the K field -/

theorem extract_extract {n : Nat} (v : BitVec n) (m q p : Nat) (h : q + p ≤ m) :
    (v.extractLsb' 0 m).extractLsb' q p = v.extractLsb' q p := by
  apply BitVec.eq_of_getLsbD_eq
  intro i hi
  have : q + i < m := by omega
  simp [hi, this]

theorem fBr_eq (cw : Word) : fBr cw = (fK cw).extractLsb' 0 5 := (extract_extract cw 7 0 5 (by omega)).symm
theorem fKTop_eq (cw : Word) : fKTop cw = (fK cw).extractLsb' 5 2 := (extract_extract cw 7 5 2 (by omega)).symm
theorem fJ_eq (cw : Word) : fJ cw = (fK cw).extractLsb' 0 4 := (extract_extract cw 7 0 4 (by omega)).symm
theorem fTag_eq (cw : Word) : fTag cw = (fK cw).extractLsb' 0 2 := (extract_extract cw 7 0 2 (by omega)).symm
theorem fClass_eq (cw : Word) : fClass cw = (fK cw).extractLsb' 0 6 := (extract_extract cw 7 0 6 (by omega)).symm
theorem fQw_eq (cw : Word) : fQw cw = (fK cw).getLsbD 4 := by simp [fQw, fK]
theorem fLayout_eq (cw : Word) : fLayout cw = if (fK cw).getLsbD 0 then .exec24 else .std := by simp [fLayout, fK]

/-! Decoding a word of a known operation code -/

theorem decode_cons (cw : Word) (rest : List Word) : decode (cw :: rest) = decodeOp (fOP cw) cw rest := rfl

theorem decode_commandWord (op : BitVec 8) (rd ra rb : GrsAddr) (k : BitVec 7) (rest : List Word) :
    decode (commandWord op rd ra rb k :: rest) = decodeOp op (commandWord op rd ra rb k) rest := by
  rw [decode_cons, fOP_commandWord]

end Sys2Proof
end

