-- ==== Sys2Proof/Laws/State.lean ====
section
/-! SUPPORT. What each update of the state does to each field: one lemma per field per update, true by rfl. -/

namespace Sys2Proof.Machine

@[simp] theorem setX_cfg (s : State) (r : GrsAddr) (v : Word) : (s.setX r v).cfg = s.cfg := rfl
@[simp] theorem setX_cmds (s : State) (r : GrsAddr) (v : Word) : (s.setX r v).cmds = s.cmds := rfl
@[simp] theorem setX_cp (s : State) (r : GrsAddr) (v : Word) : (s.setX r v).cp = s.cp := rfl
@[simp] theorem setX_grs (s : State) (r : GrsAddr) (v : Word) : (s.setX r v).grs = s.grs.set r.toNat v r.isLt := rfl
@[simp] theorem setX_dr (s : State) (r : GrsAddr) (v : Word) : (s.setX r v).dr = s.dr := rfl
@[simp] theorem setX_par (s : State) (r : GrsAddr) (v : Word) : (s.setX r v).par = s.par := rfl
@[simp] theorem setX_key (s : State) (r : GrsAddr) (v : Word) : (s.setX r v).key = s.key := rfl
@[simp] theorem setX_stat (s : State) (r : GrsAddr) (v : Word) : (s.setX r v).stat = s.stat := rfl
@[simp] theorem setX_br (s : State) (r : GrsAddr) (v : Word) : (s.setX r v).br = s.br := rfl
@[simp] theorem setX_mem (s : State) (r : GrsAddr) (v : Word) : (s.setX r v).mem = s.mem := rfl
@[simp] theorem setX_written (s : State) (r : GrsAddr) (v : Word) : (s.setX r v).written = { s.written with grs := s.written.grs.set r.toNat true r.isLt } := rfl
@[simp] theorem setX_draws (s : State) (r : GrsAddr) (v : Word) : (s.setX r v).draws = s.draws := rfl
@[simp] theorem setX_b (s : State) (r : GrsAddr) (v : Word) (q : BrNum) : (s.setX r v).b q = s.b q := rfl
@[simp] theorem setX_command (s : State) (r : GrsAddr) (v : Word) : (s.setX r v).command = s.command := rfl

@[simp] theorem setDr_cfg (s : State) (v : Word) : (s.setDr v).cfg = s.cfg := rfl
@[simp] theorem setDr_cmds (s : State) (v : Word) : (s.setDr v).cmds = s.cmds := rfl
@[simp] theorem setDr_cp (s : State) (v : Word) : (s.setDr v).cp = s.cp := rfl
@[simp] theorem setDr_grs (s : State) (v : Word) : (s.setDr v).grs = s.grs := rfl
@[simp] theorem setDr_dr (s : State) (v : Word) : (s.setDr v).dr = v := rfl
@[simp] theorem setDr_par (s : State) (v : Word) : (s.setDr v).par = s.par := rfl
@[simp] theorem setDr_key (s : State) (v : Word) : (s.setDr v).key = s.key := rfl
@[simp] theorem setDr_stat (s : State) (v : Word) : (s.setDr v).stat = s.stat := rfl
@[simp] theorem setDr_br (s : State) (v : Word) : (s.setDr v).br = s.br := rfl
@[simp] theorem setDr_mem (s : State) (v : Word) : (s.setDr v).mem = s.mem := rfl
@[simp] theorem setDr_written (s : State) (v : Word) : (s.setDr v).written = { s.written with dr := true } := rfl
@[simp] theorem setDr_draws (s : State) (v : Word) : (s.setDr v).draws = s.draws := rfl
@[simp] theorem setDr_x (s : State) (v : Word) (q : GrsAddr) : (s.setDr v).x q = s.x q := rfl
@[simp] theorem setDr_b (s : State) (v : Word) (q : BrNum) : (s.setDr v).b q = s.b q := rfl
@[simp] theorem setDr_command (s : State) (v : Word) : (s.setDr v).command = s.command := rfl
@[simp] theorem setDr_pair (s : State) (v : Word) (q : GrsAddr) : (s.setDr v).pair q = s.pair q := rfl

@[simp] theorem setPar_cfg (s : State) (v : Word) : (s.setPar v).cfg = s.cfg := rfl
@[simp] theorem setPar_cmds (s : State) (v : Word) : (s.setPar v).cmds = s.cmds := rfl
@[simp] theorem setPar_cp (s : State) (v : Word) : (s.setPar v).cp = s.cp := rfl
@[simp] theorem setPar_grs (s : State) (v : Word) : (s.setPar v).grs = s.grs := rfl
@[simp] theorem setPar_dr (s : State) (v : Word) : (s.setPar v).dr = s.dr := rfl
@[simp] theorem setPar_par (s : State) (v : Word) : (s.setPar v).par = v := rfl
@[simp] theorem setPar_key (s : State) (v : Word) : (s.setPar v).key = s.key := rfl
@[simp] theorem setPar_stat (s : State) (v : Word) : (s.setPar v).stat = s.stat := rfl
@[simp] theorem setPar_br (s : State) (v : Word) : (s.setPar v).br = s.br := rfl
@[simp] theorem setPar_mem (s : State) (v : Word) : (s.setPar v).mem = s.mem := rfl
@[simp] theorem setPar_written (s : State) (v : Word) : (s.setPar v).written = { s.written with par := true } := rfl
@[simp] theorem setPar_draws (s : State) (v : Word) : (s.setPar v).draws = s.draws := rfl
@[simp] theorem setPar_x (s : State) (v : Word) (q : GrsAddr) : (s.setPar v).x q = s.x q := rfl
@[simp] theorem setPar_b (s : State) (v : Word) (q : BrNum) : (s.setPar v).b q = s.b q := rfl
@[simp] theorem setPar_command (s : State) (v : Word) : (s.setPar v).command = s.command := rfl
@[simp] theorem setPar_pair (s : State) (v : Word) (q : GrsAddr) : (s.setPar v).pair q = s.pair q := rfl

@[simp] theorem setKey_cfg (s : State) (v : BitVec 18) : (s.setKey v).cfg = s.cfg := rfl
@[simp] theorem setKey_cmds (s : State) (v : BitVec 18) : (s.setKey v).cmds = s.cmds := rfl
@[simp] theorem setKey_cp (s : State) (v : BitVec 18) : (s.setKey v).cp = s.cp := rfl
@[simp] theorem setKey_grs (s : State) (v : BitVec 18) : (s.setKey v).grs = s.grs := rfl
@[simp] theorem setKey_dr (s : State) (v : BitVec 18) : (s.setKey v).dr = s.dr := rfl
@[simp] theorem setKey_par (s : State) (v : BitVec 18) : (s.setKey v).par = s.par := rfl
@[simp] theorem setKey_key (s : State) (v : BitVec 18) : (s.setKey v).key = v := rfl
@[simp] theorem setKey_stat (s : State) (v : BitVec 18) : (s.setKey v).stat = s.stat := rfl
@[simp] theorem setKey_br (s : State) (v : BitVec 18) : (s.setKey v).br = s.br := rfl
@[simp] theorem setKey_mem (s : State) (v : BitVec 18) : (s.setKey v).mem = s.mem := rfl
@[simp] theorem setKey_written (s : State) (v : BitVec 18) : (s.setKey v).written = { s.written with key := true } := rfl
@[simp] theorem setKey_draws (s : State) (v : BitVec 18) : (s.setKey v).draws = s.draws := rfl
@[simp] theorem setKey_x (s : State) (v : BitVec 18) (q : GrsAddr) : (s.setKey v).x q = s.x q := rfl
@[simp] theorem setKey_b (s : State) (v : BitVec 18) (q : BrNum) : (s.setKey v).b q = s.b q := rfl
@[simp] theorem setKey_command (s : State) (v : BitVec 18) : (s.setKey v).command = s.command := rfl
@[simp] theorem setKey_pair (s : State) (v : BitVec 18) (q : GrsAddr) : (s.setKey v).pair q = s.pair q := rfl

@[simp] theorem setStat_cfg (s : State) (v : Stat) : (s.setStat v).cfg = s.cfg := rfl
@[simp] theorem setStat_cmds (s : State) (v : Stat) : (s.setStat v).cmds = s.cmds := rfl
@[simp] theorem setStat_cp (s : State) (v : Stat) : (s.setStat v).cp = s.cp := rfl
@[simp] theorem setStat_grs (s : State) (v : Stat) : (s.setStat v).grs = s.grs := rfl
@[simp] theorem setStat_dr (s : State) (v : Stat) : (s.setStat v).dr = s.dr := rfl
@[simp] theorem setStat_par (s : State) (v : Stat) : (s.setStat v).par = s.par := rfl
@[simp] theorem setStat_key (s : State) (v : Stat) : (s.setStat v).key = s.key := rfl
@[simp] theorem setStat_stat (s : State) (v : Stat) : (s.setStat v).stat = v := rfl
@[simp] theorem setStat_br (s : State) (v : Stat) : (s.setStat v).br = s.br := rfl
@[simp] theorem setStat_mem (s : State) (v : Stat) : (s.setStat v).mem = s.mem := rfl
@[simp] theorem setStat_written (s : State) (v : Stat) : (s.setStat v).written = s.written := rfl
@[simp] theorem setStat_draws (s : State) (v : Stat) : (s.setStat v).draws = s.draws := rfl
@[simp] theorem setStat_x (s : State) (v : Stat) (q : GrsAddr) : (s.setStat v).x q = s.x q := rfl
@[simp] theorem setStat_b (s : State) (v : Stat) (q : BrNum) : (s.setStat v).b q = s.b q := rfl
@[simp] theorem setStat_command (s : State) (v : Stat) : (s.setStat v).command = s.command := rfl
@[simp] theorem setStat_pair (s : State) (v : Stat) (q : GrsAddr) : (s.setStat v).pair q = s.pair q := rfl

@[simp] theorem setFlags_cfg (s : State) (c o d : Bool) : (s.setFlags c o d).cfg = s.cfg := rfl
@[simp] theorem setFlags_cmds (s : State) (c o d : Bool) : (s.setFlags c o d).cmds = s.cmds := rfl
@[simp] theorem setFlags_cp (s : State) (c o d : Bool) : (s.setFlags c o d).cp = s.cp := rfl
@[simp] theorem setFlags_grs (s : State) (c o d : Bool) : (s.setFlags c o d).grs = s.grs := rfl
@[simp] theorem setFlags_dr (s : State) (c o d : Bool) : (s.setFlags c o d).dr = s.dr := rfl
@[simp] theorem setFlags_par (s : State) (c o d : Bool) : (s.setFlags c o d).par = s.par := rfl
@[simp] theorem setFlags_key (s : State) (c o d : Bool) : (s.setFlags c o d).key = s.key := rfl
@[simp] theorem setFlags_stat (s : State) (c o d : Bool) : (s.setFlags c o d).stat = { s.stat with c := c, o := o, d := d } := rfl
@[simp] theorem setFlags_br (s : State) (c o d : Bool) : (s.setFlags c o d).br = s.br := rfl
@[simp] theorem setFlags_mem (s : State) (c o d : Bool) : (s.setFlags c o d).mem = s.mem := rfl
@[simp] theorem setFlags_written (s : State) (c o d : Bool) : (s.setFlags c o d).written = s.written := rfl
@[simp] theorem setFlags_draws (s : State) (c o d : Bool) : (s.setFlags c o d).draws = s.draws := rfl
@[simp] theorem setFlags_x (s : State) (c o d : Bool) (q : GrsAddr) : (s.setFlags c o d).x q = s.x q := rfl
@[simp] theorem setFlags_b (s : State) (c o d : Bool) (q : BrNum) : (s.setFlags c o d).b q = s.b q := rfl
@[simp] theorem setFlags_command (s : State) (c o d : Bool) : (s.setFlags c o d).command = s.command := rfl
@[simp] theorem setFlags_pair (s : State) (c o d : Bool) (q : GrsAddr) : (s.setFlags c o d).pair q = s.pair q := rfl

@[simp] theorem setUnresolved_cfg (s : State) (u : Bool) : (s.setUnresolved u).cfg = s.cfg := rfl
@[simp] theorem setUnresolved_cmds (s : State) (u : Bool) : (s.setUnresolved u).cmds = s.cmds := rfl
@[simp] theorem setUnresolved_cp (s : State) (u : Bool) : (s.setUnresolved u).cp = s.cp := rfl
@[simp] theorem setUnresolved_grs (s : State) (u : Bool) : (s.setUnresolved u).grs = s.grs := rfl
@[simp] theorem setUnresolved_dr (s : State) (u : Bool) : (s.setUnresolved u).dr = s.dr := rfl
@[simp] theorem setUnresolved_par (s : State) (u : Bool) : (s.setUnresolved u).par = s.par := rfl
@[simp] theorem setUnresolved_key (s : State) (u : Bool) : (s.setUnresolved u).key = s.key := rfl
@[simp] theorem setUnresolved_stat (s : State) (u : Bool) : (s.setUnresolved u).stat = { s.stat with u := u } := rfl
@[simp] theorem setUnresolved_br (s : State) (u : Bool) : (s.setUnresolved u).br = s.br := rfl
@[simp] theorem setUnresolved_mem (s : State) (u : Bool) : (s.setUnresolved u).mem = s.mem := rfl
@[simp] theorem setUnresolved_written (s : State) (u : Bool) : (s.setUnresolved u).written = s.written := rfl
@[simp] theorem setUnresolved_draws (s : State) (u : Bool) : (s.setUnresolved u).draws = s.draws := rfl
@[simp] theorem setUnresolved_x (s : State) (u : Bool) (q : GrsAddr) : (s.setUnresolved u).x q = s.x q := rfl
@[simp] theorem setUnresolved_b (s : State) (u : Bool) (q : BrNum) : (s.setUnresolved u).b q = s.b q := rfl
@[simp] theorem setUnresolved_command (s : State) (u : Bool) : (s.setUnresolved u).command = s.command := rfl
@[simp] theorem setUnresolved_pair (s : State) (u : Bool) (q : GrsAddr) : (s.setUnresolved u).pair q = s.pair q := rfl

@[simp] theorem setB_cfg (s : State) (k : BrNum) (v : BaseReg) : (s.setB k v).cfg = s.cfg := rfl
@[simp] theorem setB_cmds (s : State) (k : BrNum) (v : BaseReg) : (s.setB k v).cmds = s.cmds := rfl
@[simp] theorem setB_cp (s : State) (k : BrNum) (v : BaseReg) : (s.setB k v).cp = s.cp := rfl
@[simp] theorem setB_grs (s : State) (k : BrNum) (v : BaseReg) : (s.setB k v).grs = s.grs := rfl
@[simp] theorem setB_dr (s : State) (k : BrNum) (v : BaseReg) : (s.setB k v).dr = s.dr := rfl
@[simp] theorem setB_par (s : State) (k : BrNum) (v : BaseReg) : (s.setB k v).par = s.par := rfl
@[simp] theorem setB_key (s : State) (k : BrNum) (v : BaseReg) : (s.setB k v).key = s.key := rfl
@[simp] theorem setB_stat (s : State) (k : BrNum) (v : BaseReg) : (s.setB k v).stat = s.stat := rfl
@[simp] theorem setB_br (s : State) (k : BrNum) (v : BaseReg) : (s.setB k v).br = s.br.set k.toNat v k.isLt := rfl
@[simp] theorem setB_mem (s : State) (k : BrNum) (v : BaseReg) : (s.setB k v).mem = s.mem := rfl
@[simp] theorem setB_written (s : State) (k : BrNum) (v : BaseReg) : (s.setB k v).written = s.written := rfl
@[simp] theorem setB_draws (s : State) (k : BrNum) (v : BaseReg) : (s.setB k v).draws = s.draws := rfl
@[simp] theorem setB_x (s : State) (k : BrNum) (v : BaseReg) (q : GrsAddr) : (s.setB k v).x q = s.x q := rfl
@[simp] theorem setB_command (s : State) (k : BrNum) (v : BaseReg) : (s.setB k v).command = s.command := rfl
@[simp] theorem setB_pair (s : State) (k : BrNum) (v : BaseReg) (q : GrsAddr) : (s.setB k v).pair q = s.pair q := rfl

@[simp] theorem drew_cfg (s : State) (n : Nat) : (s.drew n).cfg = s.cfg := rfl
@[simp] theorem drew_cmds (s : State) (n : Nat) : (s.drew n).cmds = s.cmds := rfl
@[simp] theorem drew_cp (s : State) (n : Nat) : (s.drew n).cp = s.cp := rfl
@[simp] theorem drew_grs (s : State) (n : Nat) : (s.drew n).grs = s.grs := rfl
@[simp] theorem drew_dr (s : State) (n : Nat) : (s.drew n).dr = s.dr := rfl
@[simp] theorem drew_par (s : State) (n : Nat) : (s.drew n).par = s.par := rfl
@[simp] theorem drew_key (s : State) (n : Nat) : (s.drew n).key = s.key := rfl
@[simp] theorem drew_stat (s : State) (n : Nat) : (s.drew n).stat = s.stat := rfl
@[simp] theorem drew_br (s : State) (n : Nat) : (s.drew n).br = s.br := rfl
@[simp] theorem drew_mem (s : State) (n : Nat) : (s.drew n).mem = s.mem := rfl
@[simp] theorem drew_written (s : State) (n : Nat) : (s.drew n).written = s.written := rfl
@[simp] theorem drew_draws (s : State) (n : Nat) : (s.drew n).draws = s.draws + n := rfl
@[simp] theorem drew_x (s : State) (n : Nat) (q : GrsAddr) : (s.drew n).x q = s.x q := rfl
@[simp] theorem drew_b (s : State) (n : Nat) (q : BrNum) : (s.drew n).b q = s.b q := rfl
@[simp] theorem drew_command (s : State) (n : Nat) : (s.drew n).command = s.command := rfl
@[simp] theorem drew_pair (s : State) (n : Nat) (q : GrsAddr) : (s.drew n).pair q = s.pair q := rfl

@[simp] theorem advance_cfg (s : State) (n : Nat) : (s.advance n).cfg = s.cfg := rfl
@[simp] theorem advance_cmds (s : State) (n : Nat) : (s.advance n).cmds = s.cmds := rfl
@[simp] theorem advance_cp (s : State) (n : Nat) : (s.advance n).cp = s.cp + n := rfl
@[simp] theorem advance_grs (s : State) (n : Nat) : (s.advance n).grs = s.grs := rfl
@[simp] theorem advance_dr (s : State) (n : Nat) : (s.advance n).dr = s.dr := rfl
@[simp] theorem advance_par (s : State) (n : Nat) : (s.advance n).par = s.par := rfl
@[simp] theorem advance_key (s : State) (n : Nat) : (s.advance n).key = s.key := rfl
@[simp] theorem advance_stat (s : State) (n : Nat) : (s.advance n).stat = s.stat := rfl
@[simp] theorem advance_br (s : State) (n : Nat) : (s.advance n).br = s.br := rfl
@[simp] theorem advance_mem (s : State) (n : Nat) : (s.advance n).mem = s.mem := rfl
@[simp] theorem advance_written (s : State) (n : Nat) : (s.advance n).written = s.written := rfl
@[simp] theorem advance_draws (s : State) (n : Nat) : (s.advance n).draws = s.draws := rfl
@[simp] theorem advance_x (s : State) (n : Nat) (q : GrsAddr) : (s.advance n).x q = s.x q := rfl
@[simp] theorem advance_b (s : State) (n : Nat) (q : BrNum) : (s.advance n).b q = s.b q := rfl
@[simp] theorem advance_pair (s : State) (n : Nat) (q : GrsAddr) : (s.advance n).pair q = s.pair q := rfl

@[simp] theorem newRun_cfg (s : State) (l : List Word) : (s.newRun l).cfg = s.cfg := rfl
@[simp] theorem newRun_cmds (s : State) (l : List Word) : (s.newRun l).cmds = l := rfl
@[simp] theorem newRun_cp (s : State) (l : List Word) : (s.newRun l).cp = 0 := rfl
@[simp] theorem newRun_grs (s : State) (l : List Word) : (s.newRun l).grs = s.grs := rfl
@[simp] theorem newRun_dr (s : State) (l : List Word) : (s.newRun l).dr = s.dr := rfl
@[simp] theorem newRun_par (s : State) (l : List Word) : (s.newRun l).par = s.par := rfl
@[simp] theorem newRun_key (s : State) (l : List Word) : (s.newRun l).key = s.key := rfl
@[simp] theorem newRun_stat (s : State) (l : List Word) : (s.newRun l).stat = s.stat := rfl
@[simp] theorem newRun_br (s : State) (l : List Word) : (s.newRun l).br = s.br := rfl
@[simp] theorem newRun_mem (s : State) (l : List Word) : (s.newRun l).mem = s.mem := rfl
@[simp] theorem newRun_written (s : State) (l : List Word) : (s.newRun l).written = s.written := rfl
@[simp] theorem newRun_draws (s : State) (l : List Word) : (s.newRun l).draws = s.draws + maxReads := rfl
@[simp] theorem newRun_x (s : State) (l : List Word) (q : GrsAddr) : (s.newRun l).x q = s.x q := rfl
@[simp] theorem newRun_b (s : State) (l : List Word) (q : BrNum) : (s.newRun l).b q = s.b q := rfl
@[simp] theorem newRun_pair (s : State) (l : List Word) (q : GrsAddr) : (s.newRun l).pair q = s.pair q := rfl

@[simp] theorem hostWrite_cfg (s : State) (a : AbsAddr) (v : Word) : (s.hostWrite a v).cfg = s.cfg := rfl
@[simp] theorem hostWrite_cmds (s : State) (a : AbsAddr) (v : Word) : (s.hostWrite a v).cmds = s.cmds := rfl
@[simp] theorem hostWrite_cp (s : State) (a : AbsAddr) (v : Word) : (s.hostWrite a v).cp = s.cp := rfl
@[simp] theorem hostWrite_grs (s : State) (a : AbsAddr) (v : Word) : (s.hostWrite a v).grs = s.grs := rfl
@[simp] theorem hostWrite_dr (s : State) (a : AbsAddr) (v : Word) : (s.hostWrite a v).dr = s.dr := rfl
@[simp] theorem hostWrite_par (s : State) (a : AbsAddr) (v : Word) : (s.hostWrite a v).par = s.par := rfl
@[simp] theorem hostWrite_key (s : State) (a : AbsAddr) (v : Word) : (s.hostWrite a v).key = s.key := rfl
@[simp] theorem hostWrite_stat (s : State) (a : AbsAddr) (v : Word) : (s.hostWrite a v).stat = s.stat := rfl
@[simp] theorem hostWrite_br (s : State) (a : AbsAddr) (v : Word) : (s.hostWrite a v).br = s.br := rfl
@[simp] theorem hostWrite_mem (s : State) (a : AbsAddr) (v : Word) : (s.hostWrite a v).mem = s.mem.write a v := rfl
@[simp] theorem hostWrite_written (s : State) (a : AbsAddr) (v : Word) : (s.hostWrite a v).written = s.written := rfl
@[simp] theorem hostWrite_draws (s : State) (a : AbsAddr) (v : Word) : (s.hostWrite a v).draws = s.draws := rfl
@[simp] theorem hostWrite_x (s : State) (a : AbsAddr) (v : Word) (q : GrsAddr) : (s.hostWrite a v).x q = s.x q := rfl
@[simp] theorem hostWrite_b (s : State) (a : AbsAddr) (v : Word) (q : BrNum) : (s.hostWrite a v).b q = s.b q := rfl
@[simp] theorem hostWrite_command (s : State) (a : AbsAddr) (v : Word) : (s.hostWrite a v).command = s.command := rfl
@[simp] theorem hostWrite_pair (s : State) (a : AbsAddr) (v : Word) (q : GrsAddr) : (s.hostWrite a v).pair q = s.pair q := rfl

/-- The word the host reads: the storage word, or a new draw where another agent may write it (R8, R72). -/
theorem hostRead_fst (s : State) (a : AbsAddr) :
    (s.hostRead a).1 = if s.sharedWord a then Config.foreignDraw (s.draws + maxReads) else s.mem.read a := rfl

/-- A host read changes the model's counter and nothing else (R8, R62). -/
theorem hostRead_snd (s : State) (a : AbsAddr) : (s.hostRead a).2 = { s with draws := s.draws + maxReads + 1 } := rfl

@[simp] theorem configure_cfg (s : State) (c : Config) : (s.configure c).cfg = c := rfl
@[simp] theorem configure_cmds (s : State) (c : Config) : (s.configure c).cmds = s.cmds := rfl
@[simp] theorem configure_cp (s : State) (c : Config) : (s.configure c).cp = s.cp := rfl
@[simp] theorem configure_grs (s : State) (c : Config) : (s.configure c).grs = s.grs := rfl
@[simp] theorem configure_dr (s : State) (c : Config) : (s.configure c).dr = s.dr := rfl
@[simp] theorem configure_par (s : State) (c : Config) : (s.configure c).par = s.par := rfl
@[simp] theorem configure_key (s : State) (c : Config) : (s.configure c).key = s.key := rfl
@[simp] theorem configure_stat (s : State) (c : Config) : (s.configure c).stat = s.stat := rfl
@[simp] theorem configure_br (s : State) (c : Config) : (s.configure c).br = s.br := rfl
@[simp] theorem configure_mem (s : State) (c : Config) : (s.configure c).mem = s.mem := rfl
@[simp] theorem configure_written (s : State) (c : Config) : (s.configure c).written = s.written := rfl
@[simp] theorem configure_draws (s : State) (c : Config) : (s.configure c).draws = s.draws := rfl
@[simp] theorem configure_x (s : State) (c : Config) (q : GrsAddr) : (s.configure c).x q = s.x q := rfl
@[simp] theorem configure_b (s : State) (c : Config) (q : BrNum) : (s.configure c).b q = s.b q := rfl
@[simp] theorem configure_command (s : State) (c : Config) : (s.configure c).command = s.command := rfl
@[simp] theorem configure_pair (s : State) (c : Config) (q : GrsAddr) : (s.configure c).pair q = s.pair q := rfl

@[simp] theorem setPair_cfg (s : State) (r : GrsAddr) (d : DWord) : (s.setPair r d).cfg = s.cfg := rfl
@[simp] theorem setPair_cmds (s : State) (r : GrsAddr) (d : DWord) : (s.setPair r d).cmds = s.cmds := rfl
@[simp] theorem setPair_cp (s : State) (r : GrsAddr) (d : DWord) : (s.setPair r d).cp = s.cp := rfl
@[simp] theorem setPair_dr (s : State) (r : GrsAddr) (d : DWord) : (s.setPair r d).dr = s.dr := rfl
@[simp] theorem setPair_par (s : State) (r : GrsAddr) (d : DWord) : (s.setPair r d).par = s.par := rfl
@[simp] theorem setPair_key (s : State) (r : GrsAddr) (d : DWord) : (s.setPair r d).key = s.key := rfl
@[simp] theorem setPair_stat (s : State) (r : GrsAddr) (d : DWord) : (s.setPair r d).stat = s.stat := rfl
@[simp] theorem setPair_br (s : State) (r : GrsAddr) (d : DWord) : (s.setPair r d).br = s.br := rfl
@[simp] theorem setPair_mem (s : State) (r : GrsAddr) (d : DWord) : (s.setPair r d).mem = s.mem := rfl
@[simp] theorem setPair_draws (s : State) (r : GrsAddr) (d : DWord) : (s.setPair r d).draws = s.draws := rfl
@[simp] theorem setPair_b (s : State) (r : GrsAddr) (d : DWord) (q : BrNum) : (s.setPair r d).b q = s.b q := rfl
@[simp] theorem setPair_command (s : State) (r : GrsAddr) (d : DWord) : (s.setPair r d).command = s.command := rfl

@[simp] theorem setFramePointer_cfg (s : State) (fp : Nat) : (s.setFramePointer fp).cfg = s.cfg := rfl
@[simp] theorem setFramePointer_cmds (s : State) (fp : Nat) : (s.setFramePointer fp).cmds = s.cmds := rfl
@[simp] theorem setFramePointer_cp (s : State) (fp : Nat) : (s.setFramePointer fp).cp = s.cp := rfl
@[simp] theorem setFramePointer_dr (s : State) (fp : Nat) : (s.setFramePointer fp).dr = s.dr := rfl
@[simp] theorem setFramePointer_par (s : State) (fp : Nat) : (s.setFramePointer fp).par = s.par := rfl
@[simp] theorem setFramePointer_key (s : State) (fp : Nat) : (s.setFramePointer fp).key = s.key := rfl
@[simp] theorem setFramePointer_stat (s : State) (fp : Nat) : (s.setFramePointer fp).stat = s.stat := rfl
@[simp] theorem setFramePointer_br (s : State) (fp : Nat) : (s.setFramePointer fp).br = s.br := rfl
@[simp] theorem setFramePointer_mem (s : State) (fp : Nat) : (s.setFramePointer fp).mem = s.mem := rfl
@[simp] theorem setFramePointer_draws (s : State) (fp : Nat) : (s.setFramePointer fp).draws = s.draws := rfl
@[simp] theorem setFramePointer_b (s : State) (fp : Nat) (q : BrNum) : (s.setFramePointer fp).b q = s.b q := rfl
@[simp] theorem setFramePointer_command (s : State) (fp : Nat) : (s.setFramePointer fp).command = s.command := rfl

/-! Reading a register after a write -/

@[simp] theorem x_setX_self (s : State) (r : GrsAddr) (v : Word) : (s.setX r v).x r = v := by
  simp [State.x]

theorem x_setX_ne (s : State) (r q : GrsAddr) (v : Word) (h : q ≠ r) : (s.setX r v).x q = s.x q := by
  have : r.toNat ≠ q.toNat := fun e => h (BitVec.eq_of_toNat_eq e.symm)
  simp [State.x, this]

theorem x_setX (s : State) (r q : GrsAddr) (v : Word) : (s.setX r v).x q = if q = r then v else s.x q := by
  split
  · next h => rw [h, x_setX_self]
  · next h => exact x_setX_ne s r q v h

theorem grsPlus_one_ne (r : GrsAddr) : grsPlus r 1 ≠ r := by
  unfold grsPlus
  intro h
  have h2 := congrArg BitVec.toNat h
  have := r.isLt
  simp [BitVec.toNat_add] at h2
  omega

theorem setPair_x (s : State) (r q : GrsAddr) (d : DWord) :
    (s.setPair r d).x q = if q = grsPlus r 1 then lo d else if q = r then hi d else s.x q := by
  simp only [State.setPair, x_setX]

@[simp] theorem setPair_pair (s : State) (r : GrsAddr) (d : DWord) : (s.setPair r d).pair r = d := by
  have h := (grsPlus_one_ne r).symm
  simp [State.pair, setPair_x, h]

@[simp] theorem b_setB_self (s : State) (k : BrNum) (v : BaseReg) : (s.setB k v).b k = v := by
  simp [State.b]

theorem b_setB_ne (s : State) (k q : BrNum) (v : BaseReg) (h : q ≠ k) : (s.setB k v).b q = s.b q := by
  have : k.toNat ≠ q.toNat := fun e => h (BitVec.eq_of_toNat_eq e.symm)
  simp [State.b, this]

/-! Groups -/


@[simp] theorem setGroup_cfg (ws : List Word) : ∀ (s : State) (r : GrsAddr), (s.setGroup r ws).cfg = s.cfg := by
  induction ws with
  | nil => exact fun _ _ => rfl
  | cons w ws ih => exact fun s r => by rw [State.setGroup, ih, setX_cfg]

@[simp] theorem setGroup_cmds (ws : List Word) : ∀ (s : State) (r : GrsAddr), (s.setGroup r ws).cmds = s.cmds := by
  induction ws with
  | nil => exact fun _ _ => rfl
  | cons w ws ih => exact fun s r => by rw [State.setGroup, ih, setX_cmds]

@[simp] theorem setGroup_cp (ws : List Word) : ∀ (s : State) (r : GrsAddr), (s.setGroup r ws).cp = s.cp := by
  induction ws with
  | nil => exact fun _ _ => rfl
  | cons w ws ih => exact fun s r => by rw [State.setGroup, ih, setX_cp]

@[simp] theorem setGroup_dr (ws : List Word) : ∀ (s : State) (r : GrsAddr), (s.setGroup r ws).dr = s.dr := by
  induction ws with
  | nil => exact fun _ _ => rfl
  | cons w ws ih => exact fun s r => by rw [State.setGroup, ih, setX_dr]

@[simp] theorem setGroup_par (ws : List Word) : ∀ (s : State) (r : GrsAddr), (s.setGroup r ws).par = s.par := by
  induction ws with
  | nil => exact fun _ _ => rfl
  | cons w ws ih => exact fun s r => by rw [State.setGroup, ih, setX_par]

@[simp] theorem setGroup_key (ws : List Word) : ∀ (s : State) (r : GrsAddr), (s.setGroup r ws).key = s.key := by
  induction ws with
  | nil => exact fun _ _ => rfl
  | cons w ws ih => exact fun s r => by rw [State.setGroup, ih, setX_key]

@[simp] theorem setGroup_stat (ws : List Word) : ∀ (s : State) (r : GrsAddr), (s.setGroup r ws).stat = s.stat := by
  induction ws with
  | nil => exact fun _ _ => rfl
  | cons w ws ih => exact fun s r => by rw [State.setGroup, ih, setX_stat]

@[simp] theorem setGroup_br (ws : List Word) : ∀ (s : State) (r : GrsAddr), (s.setGroup r ws).br = s.br := by
  induction ws with
  | nil => exact fun _ _ => rfl
  | cons w ws ih => exact fun s r => by rw [State.setGroup, ih, setX_br]

@[simp] theorem setGroup_mem (ws : List Word) : ∀ (s : State) (r : GrsAddr), (s.setGroup r ws).mem = s.mem := by
  induction ws with
  | nil => exact fun _ _ => rfl
  | cons w ws ih => exact fun s r => by rw [State.setGroup, ih, setX_mem]

@[simp] theorem setGroup_draws (ws : List Word) : ∀ (s : State) (r : GrsAddr), (s.setGroup r ws).draws = s.draws := by
  induction ws with
  | nil => exact fun _ _ => rfl
  | cons w ws ih => exact fun s r => by rw [State.setGroup, ih, setX_draws]

@[simp] theorem setGroup_b (ws : List Word) (s : State) (r : GrsAddr) (q : BrNum) : (s.setGroup r ws).b q = s.b q := by
  simp [State.b]

end Sys2Proof.Machine
end

