-- ==== Sys2Proof/Laws/Memory.lean ====
section
/-! SUPPORT. The laws of storage: read after write, and that every storage operation keeps the canonical form. -/

namespace Sys2Proof.Machine

theorem addrKey_injective {a b : AbsAddr} (h : addrKey a = addrKey b) : a = b := by
  obtain ⟨u, s, o⟩ := a
  obtain ⟨u', s', o'⟩ := b
  have h1 := u.isLt
  have h2 := s.isLt
  have h3 := u'.isLt
  have h4 := s'.isLt
  simp only [addrKey] at h
  have e1 : o = o' := by omega
  have e2 : u.toNat = u'.toNat := by omega
  have e3 : s.toNat = s'.toNat := by omega
  rw [e1, BitVec.eq_of_toNat_eq e2, BitVec.eq_of_toNat_eq e3]

/-- An address below every listed one reads as unlisted. -/
theorem read_below : ∀ (m : Memory) (a : AbsAddr), (∀ p ∈ m, addrKey a < addrKey p.1) → m.read a = unlistedWord := by
  intro m
  induction m with
  | nil => exact fun _ _ => rfl
  | cons p m ih =>
    obtain ⟨b, w⟩ := p
    intro a h
    have hb : b ≠ a := by
      rintro rfl
      exact Nat.lt_irrefl _ (h (b, w) (by simp))
    simp only [Memory.read, if_neg hb]
    exact ih a fun p hp => h p (by simp [hp])

theorem memory_wf_cons (b : AbsAddr) (w : Word) (m : Memory) :
    Memory.wf ((b, w) :: m) = true ↔ (w ≠ unlistedWord ∧ (∀ p ∈ m, addrKey b < addrKey p.1) ∧ Memory.wf m = true) := by
  simp only [Memory.wf, List.pairwise_cons, List.all_cons, Bool.and_eq_true, decide_eq_true_eq]
  tauto

/-- Every listed address after a write is the written one or was listed before. -/
theorem mem_write_addr : ∀ (m : Memory) (a : AbsAddr) (v : Word), ∀ p ∈ m.write a v, p.1 = a ∨ p ∈ m := by
  intro m
  induction m with
  | nil =>
    intro a v p hp
    simp only [Memory.write] at hp
    split at hp
    · simp at hp
    · simp only [List.mem_singleton] at hp
      exact .inl (by rw [hp])
  | cons q m ih =>
    obtain ⟨b, w⟩ := q
    intro a v p hp
    simp only [Memory.write] at hp
    split at hp
    · split at hp
      · exact .inr hp
      · rcases List.mem_cons.1 hp with h | h
        · exact .inl (by rw [h])
        · exact .inr h
    · split at hp
      · split at hp
        · exact .inr (List.mem_cons_of_mem _ hp)
        · rcases List.mem_cons.1 hp with h | h
          · exact .inl (by rw [h])
          · exact .inr (List.mem_cons_of_mem _ h)
      · rcases List.mem_cons.1 hp with h | h
        · exact .inr (by simp [h])
        · rcases ih a v p h with h | h
          · exact .inl h
          · exact .inr (List.mem_cons_of_mem _ h)

/-- A write keeps the canonical form (R63, log entry 6). -/
theorem write_keeps_wf : ∀ (m : Memory) (a : AbsAddr) (v : Word), m.wf = true → (m.write a v).wf = true := by
  intro m
  induction m with
  | nil =>
    intro a v _
    simp only [Memory.write]
    split
    · rfl
    · next h => exact (memory_wf_cons a v []).2 ⟨h, by simp, rfl⟩
  | cons q m ih =>
    obtain ⟨b, w⟩ := q
    intro a v h
    obtain ⟨hw, hb, hm⟩ := (memory_wf_cons b w m).1 h
    simp only [Memory.write]
    split
    · next hk =>
      split
      · exact h
      · next hv =>
        refine (memory_wf_cons a v _).2 ⟨hv, ?_, h⟩
        intro p hp
        rcases List.mem_cons.1 hp with rfl | hp
        · exact hk
        · exact Nat.lt_trans hk (hb p hp)
    · next hk =>
      split
      · next he =>
        subst he
        split
        · exact hm
        · next hv => exact (memory_wf_cons a v m).2 ⟨hv, hb, hm⟩
      · next hne =>
        refine (memory_wf_cons b w _).2 ⟨hw, ?_, ih a v hm⟩
        intro p hp
        rcases mem_write_addr m a v p hp with h | h
        · rw [h]
          have : addrKey a ≠ addrKey b := fun e => hne (addrKey_injective e)
          omega
        · exact hb p h

/-- Reading the word just written. -/
theorem read_write_self : ∀ (m : Memory) (a : AbsAddr) (v : Word), m.wf = true → (m.write a v).read a = v := by
  intro m
  induction m with
  | nil =>
    intro a v _
    simp only [Memory.write]
    split
    · next h => simp [Memory.read, h]
    · simp [Memory.read]
  | cons q m ih =>
    obtain ⟨b, w⟩ := q
    intro a v h
    obtain ⟨hw, hb, hm⟩ := (memory_wf_cons b w m).1 h
    simp only [Memory.write]
    split
    · next hk =>
      split
      · next hv =>
        rw [hv]
        refine read_below _ a ?_
        intro p hp
        rcases List.mem_cons.1 hp with rfl | hp
        · exact hk
        · exact Nat.lt_trans hk (hb p hp)
      · simp [Memory.read]
    · split
      · next he =>
        subst he
        split
        · next hv =>
          rw [hv]
          exact read_below m a hb
        · simp [Memory.read]
      · next hne =>
        simp only [Memory.read, if_neg (Ne.symm hne)]
        exact ih a v hm

/-- A write leaves every other word alone. -/
theorem read_write_ne : ∀ (m : Memory) (a c : AbsAddr) (v : Word), c ≠ a → (m.write a v).read c = m.read c := by
  intro m
  induction m with
  | nil =>
    intro a c v h
    simp only [Memory.write]
    split
    · rfl
    · simp [Memory.read, h.symm]
  | cons q m ih =>
    obtain ⟨b, w⟩ := q
    intro a c v h
    simp only [Memory.write]
    split
    · split
      · rfl
      · simp [Memory.read, h.symm]
    · split
      · next he =>
        subst he
        split
        · simp [Memory.read, h.symm]
        · simp [Memory.read, h.symm]
      · simp only [Memory.read]
        split
        · rfl
        · exact ih a c v h

/-- `MemWrite` keeps the canonical form. -/
theorem writeWords_keeps_wf (ws : List Word) :
    ∀ (m : Memory) (a : AbsAddr), m.wf = true → (m.writeWords a ws).wf = true := by
  induction ws with
  | nil => exact fun _ _ h => h
  | cons w ws ih => exact fun m a h => ih _ _ (write_keeps_wf m a w h)

@[simp] theorem addrPlus_zero (a : AbsAddr) : addrPlus a 0 = a := rfl

theorem addrPlus_addrPlus (a : AbsAddr) (i j : Nat) : addrPlus (addrPlus a i) j = addrPlus a (i + j) := by
  simp [addrPlus, Nat.add_assoc]

theorem addrPlus_ne (a : AbsAddr) (i : Nat) (h : i ≠ 0) : addrPlus a i ≠ a := by
  intro e
  have := congrArg AbsAddr.off e
  simp only [addrPlus] at this
  omega

/-- `MemWrite` leaves every word outside its range alone (R63). -/
theorem read_writeWords_ne (ws : List Word) :
    ∀ (m : Memory) (a c : AbsAddr), (∀ i < ws.length, c ≠ addrPlus a i) → (m.writeWords a ws).read c = m.read c := by
  induction ws with
  | nil => exact fun _ _ _ _ => rfl
  | cons w ws ih =>
    intro m a c h
    rw [Memory.writeWords, ih _ _ c ?_, read_write_ne m a c w (by simpa using h 0 (by simp))]
    intro i hi
    rw [addrPlus_addrPlus]
    exact h (1 + i) (by simp only [List.length_cons]; omega)

/-- `MemWrite` writes word `i` of its words to `a + i` (R63). -/
theorem read_writeWords (ws : List Word) :
    ∀ (m : Memory) (a : AbsAddr), m.wf = true → ∀ (i : Nat) (hi : i < ws.length),
      (m.writeWords a ws).read (addrPlus a i) = ws[i] := by
  induction ws with
  | nil => intro m a _ i hi; simp at hi
  | cons w ws ih =>
    intro m a h i hi
    cases i with
    | zero =>
      rw [Memory.writeWords, read_writeWords_ne, addrPlus_zero, read_write_self m a w h]
      · rfl
      · intro j _
        rw [addrPlus_addrPlus, addrPlus_zero]
        exact (addrPlus_ne a (1 + j) (by omega)).symm
    | succ i =>
      have hi' : i < ws.length := by simpa using hi
      have := ih (m.write a w) (addrPlus a 1) (write_keeps_wf m a w h) i hi'
      rw [addrPlus_addrPlus, Nat.add_comm 1 i] at this
      simpa [Memory.writeWords] using this

/-- Reset storage has the canonical form. -/
theorem reset_mem_wf : State.reset.mem.wf = true := rfl

end Sys2Proof.Machine
end

