-- ==== Sys2Proof/Laws/Frames.lean ====
section
/-! SUPPORT. Frames of the register updates, and how a completion statement follows from a meaning's next state. -/

namespace Sys2Proof.Machine

/-! The marks of written registers (R25) -/

theorem unwrittenX_eq (s : State) (r : GrsAddr) : s.unwrittenX r = !(s.written.grs[r.toNat]'r.isLt) := by
  have e : grsPlus r 0 = r := by simp [grsPlus]
  simp [State.unwrittenX, State.unwrittenGroup, e]

/-- A write makes its own location written. -/
@[simp] theorem unwrittenX_setX_self (s : State) (r : GrsAddr) (v : Word) : (s.setX r v).unwrittenX r = false := by
  simp [unwrittenX_eq]

/-- A write leaves the mark of every other location. -/
theorem unwrittenX_setX_ne (s : State) (r q : GrsAddr) (v : Word) (h : q ≠ r) :
    (s.setX r v).unwrittenX q = s.unwrittenX q := by
  have : r.toNat ≠ q.toNat := fun e => h (BitVec.eq_of_toNat_eq e.symm)
  simp [unwrittenX_eq, this]

@[simp] theorem unwrittenX_drew (s : State) (n : Nat) (q : GrsAddr) : (s.drew n).unwrittenX q = s.unwrittenX q := rfl
@[simp] theorem unwrittenX_setStat (s : State) (v : Stat) (q : GrsAddr) :
    (s.setStat v).unwrittenX q = s.unwrittenX q := rfl
@[simp] theorem unwrittenX_setB (s : State) (k : BrNum) (v : BaseReg) (q : GrsAddr) :
    (s.setB k v).unwrittenX q = s.unwrittenX q := rfl
@[simp] theorem unwrittenX_setDr (s : State) (v : Word) (q : GrsAddr) :
    (s.setDr v).unwrittenX q = s.unwrittenX q := rfl
@[simp] theorem unwrittenX_setPar (s : State) (v : Word) (q : GrsAddr) :
    (s.setPar v).unwrittenX q = s.unwrittenX q := rfl
@[simp] theorem unwrittenX_setKey (s : State) (v : BitVec 18) (q : GrsAddr) :
    (s.setKey v).unwrittenX q = s.unwrittenX q := rfl

/-- A location once written stays so under a later write. -/
theorem grsWritten_setX {ds : List GrsAddr} {t : State} (r : GrsAddr) (v : Word) (h : ∀ q ∈ ds, q ≠ r → t.unwrittenX q = false) :
    grsWritten ds (t.setX r v) := by
  intro q hq
  by_cases e : q = r
  · rw [e, unwrittenX_setX_self]
  · rw [unwrittenX_setX_ne _ _ _ _ e, h q hq e]

/-! What a register update changes -/

theorem changesOnly_refl (s : State) : changesOnly [] 0 s s :=
  ⟨fun _ _ => ⟨rfl, rfl⟩, ⟨rfl, rfl, rfl, rfl, rfl, rfl⟩, fun _ _ => rfl, fun _ _ => rfl, ⟨rfl, rfl, rfl⟩, rfl⟩

/-- What changes only fewer registers changes only more. -/
theorem changesOnly_mono {ds es : List GrsAddr} {n : Nat} {s t : State} (h : changesOnly ds n s t)
    (hs : ∀ r, r ∈ ds → r ∈ es) : changesOnly es n s t :=
  ⟨fun r hr => h.1 r fun hd => hr (hs r hd), h.2⟩

/-- Writing a register of the frame keeps the frame. -/
theorem changesOnly_setX {ds : List GrsAddr} {n : Nat} {s t : State} (h : changesOnly ds n s t) (r : GrsAddr) (v : Word)
    (hr : r ∈ ds) : changesOnly ds n s (t.setX r v) := by
  obtain ⟨h1, h2⟩ := h
  refine ⟨fun q hq => ?_, h2⟩
  have hne : q ≠ r := fun e => hq (by rw [e]; exact hr)
  rw [x_setX_ne _ _ _ _ hne, unwrittenX_setX_ne _ _ _ _ hne]
  exact h1 q hq

theorem changesOnly_setPair {ds : List GrsAddr} {n : Nat} {s t : State} (h : changesOnly ds n s t) (r : GrsAddr)
    (d : DWord) (h1 : r ∈ ds) (h2 : grsPlus r 1 ∈ ds) : changesOnly ds n s (t.setPair r d) :=
  changesOnly_setX (changesOnly_setX h r _ h1) _ _ h2

theorem changesOnly_setStat {ds : List GrsAddr} {n : Nat} {s t : State} (h : changesOnly ds n s t) (v : Stat) :
    changesOnly ds n s (t.setStat v) := h

theorem changesOnly_setFlags {ds : List GrsAddr} {n : Nat} {s t : State} (h : changesOnly ds n s t) (c o d : Bool) :
    changesOnly ds n s (t.setFlags c o d) := h

theorem changesOnly_setUnresolved {ds : List GrsAddr} {n : Nat} {s t : State} (h : changesOnly ds n s t) (u : Bool) :
    changesOnly ds n s (t.setUnresolved u) := h

theorem changesOnly_drew (s : State) (n : Nat) : changesOnly [] n s (s.drew n) :=
  ⟨fun _ _ => ⟨rfl, rfl⟩, ⟨rfl, rfl, rfl, rfl, rfl, rfl⟩, fun _ _ => rfl, fun _ _ => rfl, ⟨rfl, rfl, rfl⟩, rfl⟩

theorem framed_setX (s : State) (r : GrsAddr) (v : Word) : framed [r] 0 s (s.setX r v) :=
  ⟨changesOnly_setX (changesOnly_mono (changesOnly_refl s) (by simp)) r v (by simp),
    grsWritten_setX r v fun q hq e => absurd (List.mem_singleton.mp hq) e⟩

theorem framed_setPair (s : State) (r : GrsAddr) (d : DWord) : framed [r, grsPlus r 1] 0 s (s.setPair r d) := by
  refine ⟨changesOnly_setPair (changesOnly_mono (changesOnly_refl s) (by simp)) r d (by simp) (by simp), ?_⟩
  refine grsWritten_setX _ _ fun q hq e => ?_
  rcases List.mem_cons.mp hq with rfl | hq
  · exact unwrittenX_setX_self _ _ _
  · exact absurd (List.mem_singleton.mp hq) e

theorem framed_setStat {ds : List GrsAddr} {n : Nat} {s t : State} (h : framed ds n s t) (v : Stat) :
    framed ds n s (t.setStat v) := h

/-- A command that writes one register, and perhaps STAT. -/
theorem completesTo_setX {i : Instr} {s : State} {r : GrsAddr} {v : Word} {st : Stat}
    (h : exec i s = .next ((s.setX r v).setStat st)) : completesTo i s [(r, v)] st :=
  ⟨_, h, by simp, rfl, framed_setStat (framed_setX s r v) st⟩

/-- A command that writes a pair, and perhaps STAT. -/
theorem completesTo_setPair {i : Instr} {s : State} {r : GrsAddr} {d : DWord} {st : Stat}
    (h : exec i s = .next ((s.setPair r d).setStat st)) : completesTo i s [(r, hi d), (grsPlus r 1, lo d)] st :=
  ⟨_, h, by simp [setPair_x, (grsPlus_one_ne r).symm], rfl, framed_setStat (framed_setPair s r d) st⟩

/-- The same update with STAT left alone. -/
theorem setStat_self (s : State) : s.setStat s.stat = s := rfl

/-- A command that writes one register, its bits given one by one. -/
theorem setsBits_setX {i : Instr} {s : State} {r : GrsAddr} {v : Word} {f : Nat → Bool}
    (h : exec i s = .next (s.setX r v)) (hv : ∀ k < 36, v.getLsbD k = f k) : setsBits i s r f := by
  obtain ⟨t, h1, h2, h3, h4⟩ := completesTo_setX (st := s.stat) h
  have hx : t.x r = v := by simpa using h2
  exact ⟨t, h1, fun k hk => by rw [hx, hv k hk], h3, h4⟩

/-- A command that writes a pair, its bits given one by one. -/
theorem setsPairBits_setPair {i : Instr} {s : State} {r : GrsAddr} {d : DWord} {f : Nat → Bool}
    (h : exec i s = .next (s.setPair r d)) (hd : ∀ k < 72, d.getLsbD k = f k) : setsPairBits i s r f := by
  obtain ⟨t, h1, h2, h3, h4⟩ := completesTo_setPair (st := s.stat) h
  have hx : t.pair r = d := by
    have e1 : t.x r = hi d := h2 (r, hi d) (by simp)
    have e2 : t.x (grsPlus r 1) = lo d := h2 (grsPlus r 1, lo d) (by simp)
    rw [State.pair, e1, e2, dw_hi_lo]
  exact ⟨t, h1, fun k hk => by rw [hx, hd k hk], h3, h4⟩

end Sys2Proof.Machine
end

