-- ==== Sys2Proof/Laws/Operations.lean ====
section
/-! SUPPORT. What each shared operation can answer, said once: later proofs cite these instead of unfolding it. -/

namespace Sys2Proof.Machine

/-! The step -/

theorem advanceAfter_next {n : Nat} {r : Result} {t : State} (h : advanceAfter n r = .next t) :
    ∃ u, r = .next u ∧ t = u.advance n := by
  cases r with
  | next u => exact ⟨u, rfl, by simpa [advanceAfter] using h.symm⟩
  | fault f => simp [advanceAfter] at h
  | refused f => simp [advanceAfter] at h

/-- A step that ends `Done` is idle, or ran the decoded command and moved past it. -/
theorem step_next {s t : State} (h : step s = .next t) :
    (decode s.pending = .error .noCommand ∧ t = s) ∨
      ∃ i u, decode s.pending = .ok i ∧ exec i s = .next u ∧ t = u.advance i.length := by
  unfold step stepOn at h
  split at h
  · next he => exact .inl ⟨he, by simpa using h.symm⟩
  · simp [badCommand, raise] at h
  · simp [badCommand, raise] at h
  · next i he =>
    obtain ⟨u, h1, h2⟩ := advanceAfter_next h
    exact .inr ⟨i, u, he, h1, h2⟩

/-! Storage -/

theorem firstAbsent_none {s : State} {a : AbsAddr} {n : Nat} : s.firstAbsent a n = none ↔ allPresent s a n := by
  simp [State.firstAbsent, allPresent]

theorem firstAbsent_some {s : State} {a : AbsAddr} {n i : Nat} (hp : allPresent s a i) (hi : i < n)
    (ha : s.present (addrPlus a i) = false) : s.firstAbsent a n = some (addrPlus a i) := by
  simp only [State.firstAbsent, List.find?_map, Option.map_eq_some_iff]
  refine ⟨i, ?_, rfl⟩
  rw [List.find?_range_eq_some]
  refine ⟨by simp [ha], by simpa using hi, ?_⟩
  intro j hj
  simpa using hp j hj

theorem memRead_ok {s : State} {a : AbsAddr} {n : Nat} {w : Vector Word n} (h : memRead s a n = .ok w) :
    allPresent s a n ∧ ∀ i (hi : i < n), w[i] = s.readWord i (addrPlus a i) := by
  unfold memRead at h
  split at h
  · simp at h
  · next hn =>
    refine ⟨firstAbsent_none.1 hn, fun i hi => ?_⟩
    rw [← Except.ok.inj h]
    simp

theorem memRead_present {s : State} {a : AbsAddr} {n : Nat} (h : allPresent s a n) :
    memRead s a n = .ok (Vector.ofFn fun i => s.readWord i.val (addrPlus a i.val)) := by
  simp [memRead, firstAbsent_none.2 h]

theorem memRead_absent {s : State} {a : AbsAddr} {n i : Nat} (hp : allPresent s a i) (hi : i < n)
    (ha : s.present (addrPlus a i) = false) : memRead s a n = .error (.noStorage (addrPlus a i)) := by
  simp [memRead, firstAbsent_some hp hi ha]

theorem memWrite_ok {s t : State} {a : AbsAddr} {ws : List Word} (h : memWrite s a ws = .ok t) :
    allPresent s a ws.length ∧ t = { s with mem := s.mem.writeWords a ws } := by
  unfold memWrite at h
  split at h
  · simp at h
  · next hn => exact ⟨firstAbsent_none.1 hn, (Except.ok.inj h).symm⟩

theorem memWrite_present {s : State} {a : AbsAddr} {ws : List Word} (h : allPresent s a ws.length) :
    memWrite s a ws = .ok { s with mem := s.mem.writeWords a ws } := by
  simp [memWrite, firstAbsent_none.2 h]

theorem memWrite_absent {s : State} {a : AbsAddr} {ws : List Word} {i : Nat} (hp : allPresent s a i)
    (hi : i < ws.length) (ha : s.present (addrPlus a i) = false) :
    memWrite s a ws = .error (.noStorage (addrPlus a i)) := by
  simp [memWrite, firstAbsent_some hp hi ha]

/-- What writing two words does to storage (R63, R64). -/
theorem writeWords_two {m : Memory} (h : m.wf = true) (a : AbsAddr) (v w : Word) :
    (m.writeWords a [v, w]).read a = v ∧ (m.writeWords a [v, w]).read (addrPlus a 1) = w ∧
      ∀ c, c ≠ a → c ≠ addrPlus a 1 → (m.writeWords a [v, w]).read c = m.read c := by
  refine ⟨?_, ?_, fun c h0 h1 => ?_⟩
  · simpa using read_writeWords [v, w] m a h 0 (by simp)
  · simpa using read_writeWords [v, w] m a h 1 (by simp)
  · refine read_writeWords_ne _ _ _ _ fun i hi => ?_
    have : i = 0 ∨ i = 1 := by simp at hi; omega
    rcases this with rfl | rfl
    · simpa using h0
    · exact h1

/-! Checks and translation -/

theorem limitsOK_iff {b : BaseReg} {rel n : Nat} (hn : 0 < n) : limitsOK b rel n = true ↔ inLimits b rel n := by
  simp only [limitsOK, inLimits, Bool.and_eq_true, Bool.not_eq_true', decide_eq_true_eq, and_assoc]
  constructor <;> rintro ⟨h1, h2, h3⟩ <;> exact ⟨h1, h2, by omega⟩

theorem selectPerm_eq (b : BaseReg) (key : BitVec 18) : selectPerm b (accessInfo key) = selectedPerms b key := by
  have h1 : (key.extractLsb' 16 2).toNat = key.toNat / 2 ^ 16 := by
    have := key.isLt
    simp [BitVec.extractLsb'_toNat, Nat.shiftRight_eq_div_pow]
    omega
  have h2 : (key.extractLsb' 0 16).toNat = key.toNat % 2 ^ 16 := by
    simp [BitVec.extractLsb'_toNat]
  simp only [selectPerm, selectedPerms, accessInfo, h1, ← h2, BitVec.toNat_inj]

/-- A translation that answers an address passed both checks. -/
theorem translate_ok {s : State} {k : BrNum} {rel n : Nat} {intent : Intent} {a : AbsAddr}
    (h : translate s k rel n intent = .ok a) :
    limitsOK (s.b k) rel n = true ∧ permOK (selectPerm (s.b k) (accessInfo s.key)) intent = true ∧
      a = addrPlus (s.b k).base rel := by
  unfold translate at h
  split at h
  · simp at h
  · next h1 =>
    split at h
    · simp at h
    · next h2 => exact ⟨by simpa using h1, by simpa using h2, (Except.ok.inj h).symm⟩

theorem translate_passes {s : State} {k : BrNum} {rel n : Nat} {intent : Intent}
    (h1 : limitsOK (s.b k) rel n = true) (h2 : permOK (selectPerm (s.b k) (accessInfo s.key)) intent = true) :
    translate s k rel n intent = .ok (addrPlus (s.b k).base rel) := by
  simp [translate, h1, h2]

theorem translate_limits {s : State} {k : BrNum} {rel n : Nat} {intent : Intent} (h : limitsOK (s.b k) rel n = false) :
    translate s k rel n intent = .error (limitsViolation (decide (intent = .fetch)) k rel) := by
  simp [translate, h]

theorem translate_denied {s : State} {k : BrNum} {rel n : Nat} {intent : Intent} (h1 : limitsOK (s.b k) rel n = true)
    (h2 : permOK (selectPerm (s.b k) (accessInfo s.key)) intent = false) :
    translate s k rel n intent = .error (.refViol (if intent = .write then .write else .read)
      (decide (intent = .fetch)) k (BitVec.ofNat 36 rel)) := by
  simp [translate, h1, h2]

/-- XLT and XLTN that end `Done` wrote the translated address and nothing else. -/
theorem translateInto_next {rd : GrsAddr} {k : BrNum} {rel n : Nat} {intent : Intent} {s t : State}
    (h : translateInto rd k rel n intent s = .next t) :
    ∃ a, translate s k rel n intent = .ok a ∧ t = s.setPair rd (dw (absWordA a) (absWordB a)) := by
  unfold translateInto at h
  split at h
  · simp [raise] at h
  · next a ha => exact ⟨a, ha, by simpa [done] using h.symm⟩

/-- A store that ends `Done` translated for writing and wrote its words. -/
theorem storeAt_next {k : BrNum} {rel : Nat} {ws : List Word} {s t : State} (h : storeAt k rel ws s = .next t) :
    limitsOK (s.b k) rel ws.length = true ∧ (selectPerm (s.b k) (accessInfo s.key)).write = true ∧
      allPresent s (addrPlus (s.b k).base rel) ws.length ∧
      t = { s with mem := s.mem.writeWords (addrPlus (s.b k).base rel) ws } := by
  unfold storeAt at h
  split at h
  · simp [raise] at h
  · next a ha =>
    obtain ⟨h1, h2, rfl⟩ := translate_ok ha
    split at h
    · simp [refuse] at h
    · next u hu =>
      obtain ⟨h3, rfl⟩ := memWrite_ok hu
      exact ⟨h1, h2, h3, by simpa [done] using h.symm⟩

/-! The Return Control Stack -/

/-- A push that ends `Done` wrote its frame at the frame pointer and nothing else. -/
theorem pushFrame_next {f0 f1 : Word} {s t : State} (h : pushFrame f0 f1 s = .next t) :
    limitsOK (s.b rcsBr) (framePointer s) 2 = true ∧ allPresent s (addrPlus (s.b rcsBr).base (framePointer s)) 2 ∧
      t = { s with mem := s.mem.writeWords (addrPlus (s.b rcsBr).base (framePointer s)) [f0, f1] } := by
  unfold pushFrame at h
  simp only at h
  split at h
  · simp [raise] at h
  · next h1 =>
    split at h
    · simp [refuse] at h
    · next u hu =>
      obtain ⟨h2, rfl⟩ := memWrite_ok hu
      exact ⟨by simpa using h1, h2, by simpa [done] using h.symm⟩

theorem pushCheck_ok {s : State} {new : Nat} (h : pushCheck s = .ok new) :
    (s.b rcsBr).void = false ∧ (s.b rcsBr).lower + 2 ≤ framePointer s ∧ new = framePointer s - 2 := by
  have hw : frameWords = 2 := rfl
  unfold pushCheck at h
  by_cases h1 : (s.b rcsBr).void ∨ ((framePointer s : Int) - frameWords) < (s.b rcsBr).lower
  · simp [h1] at h
  · simp only [if_neg h1] at h
    obtain ⟨h2, h3⟩ := not_or.1 h1
    have h4 := Except.ok.inj h
    rw [hw] at h3 h4
    exact ⟨by simpa using h2, by omega, by omega⟩

theorem popCheck_ok {s : State} {fp : Nat} (h : popCheck s = .ok fp) :
    fp = framePointer s ∧ (s.b rcsBr).void = false ∧ fp + 2 ≤ (s.b rcsBr).upper + 1 ∧ (s.b rcsBr).lower ≤ fp := by
  have hw : frameWords = 2 := rfl
  unfold popCheck at h
  by_cases h1 : (s.b rcsBr).void ∨ framePointer s + frameWords > (s.b rcsBr).upper + 1
  · simp [h1] at h
  · simp only [if_neg h1] at h
    split at h
    · simp at h
    · next h2 =>
      obtain ⟨h3, h4⟩ := not_or.1 h1
      have h5 := Except.ok.inj h
      subst h5
      rw [hw] at h4
      exact ⟨rfl, by simpa using h3, by omega, by omega⟩

/-! Division -/

/-- A divide that ends `Done` had a quotient and a remainder to write. -/
theorem divInto_next {rd : GrsAddr} {out : Option DivOut} {s t : State} (h : divInto rd out s = .next t) :
    ∃ o, out = some o ∧ t = ((s.setX rd o.q).setX (grsPlus rd 1) o.rm).setFlags false false o.dovf := by
  unfold divInto at h
  split at h
  · simp [raise] at h
  · next o => exact ⟨o, rfl, by simpa [done] using h.symm⟩

/-! Register groups -/

theorem groupOK_eq (r : GrsAddr) (n : Nat) : groupOK r n = groupInGrs r n := rfl

theorem groupOK_iff {r : GrsAddr} {n : Nat} : groupOK r n = true ↔ r.toNat + n ≤ 128 := by simp [groupOK]

/-- The registers of a group that fits lie at rising addresses. -/
theorem grsPlus_toNat {r : GrsAddr} {i : Nat} (h : r.toNat + i < 128) : (grsPlus r i).toNat = r.toNat + i := by
  unfold grsPlus
  rw [BitVec.toNat_add, BitVec.toNat_ofNat]
  omega

/-- What the destinations of a group write hold (UNPKA, UNPKF, STBR). -/
theorem setGroup_x (ws : List Word) : ∀ (s : State) (r : GrsAddr), r.toNat + ws.length ≤ 128 →
    (∀ (i : Nat) (hi : i < ws.length), (s.setGroup r ws).x (grsPlus r i) = ws[i]) ∧
    ∀ q : GrsAddr, (q.toNat < r.toNat ∨ r.toNat + ws.length ≤ q.toNat) → (s.setGroup r ws).x q = s.x q := by
  induction ws with
  | nil => exact fun s r _ => ⟨fun i hi => by simp at hi, fun q _ => rfl⟩
  | cons w ws ih =>
    intro s r h
    simp only [List.length_cons] at h
    by_cases hl : ws = []
    · subst hl
      refine ⟨fun i hi => ?_, fun q hq => ?_⟩
      · have : i = 0 := by simpa using hi
        subst this
        simp [State.setGroup, grsPlus]
      · refine x_setX_ne _ _ _ _ fun e => ?_
        subst e
        simp at hq
    · have hpos : 0 < ws.length := List.length_pos_of_ne_nil hl
      have hp : (grsPlus r 1).toNat = r.toNat + 1 := grsPlus_toNat (by omega)
      obtain ⟨h1, h2⟩ := ih (s.setX r w) (grsPlus r 1) (by omega)
      refine ⟨fun i hi => ?_, fun q hq => ?_⟩
      · cases i with
        | zero =>
          have e : grsPlus r 0 = r := by simp [grsPlus]
          rw [State.setGroup, e, h2 r (.inl (by omega))]
          simp
        | succ i =>
          have hi' : i < ws.length := by simpa using hi
          have e : grsPlus r (i + 1) = grsPlus (grsPlus r 1) i := by
            apply BitVec.eq_of_toNat_eq
            rw [grsPlus_toNat (by omega), grsPlus_toNat (by omega), hp]
            omega
          rw [State.setGroup, e, h1 i hi']
          rfl
      · simp only [List.length_cons] at hq
        rw [State.setGroup, h2 q (by omega), x_setX_ne]
        rintro rfl
        omega

end Sys2Proof.Machine
end

