-- ==== Sys2Proof/Laws/PerInstr.lean ====
section
/-! SUPPORT. The shape of every command's encoding (R80, R82), one lemma per constructor: its words are as many as its
length says, and the length is 2 exactly for the operation code of LDI. -/

/-- The encoding of a command starts with a command word, is as long as the command, and is two words long exactly if the
operation code is 0x41. -/
def Sys2Proof.Laws.EncodingShape.Statement (i : Sys2Proof.Instr) : Prop :=
  ∃ cw rest, Sys2Proof.encode i = cw :: rest ∧ (Sys2Proof.encode i).length = i.length ∧
    (i.length = 2 ↔ Sys2Proof.fOP cw = 0x41)

namespace Sys2Proof.Laws

/-- A command of one word whose operation code is not LDI's. -/
theorem one_word_shape {i : Instr} {op : BitVec 8} {rd ra rb : GrsAddr} {k : BitVec 7}
    (h : encode i = [commandWord op rd ra rb k]) (hl : i.length = 1) (hop : (op == 0x41) = false) :
    EncodingShape.Statement i := by
  refine ⟨_, _, h, by rw [h, hl]; rfl, ?_⟩
  rw [hl, fOP_commandWord]
  simpa using hop

theorem EncodingShape.add (rd ra rb : GrsAddr) : EncodingShape.Statement (.add rd ra rb) :=
  one_word_shape rfl rfl rfl
theorem EncodingShape.sub (rd ra rb : GrsAddr) : EncodingShape.Statement (.sub rd ra rb) :=
  one_word_shape rfl rfl rfl
theorem EncodingShape.neg (rd ra : GrsAddr) : EncodingShape.Statement (.neg rd ra) :=
  one_word_shape rfl rfl rfl
theorem EncodingShape.dadd (rd ra rb : GrsAddr) : EncodingShape.Statement (.dadd rd ra rb) :=
  one_word_shape rfl rfl rfl
theorem EncodingShape.dsub (rd ra rb : GrsAddr) : EncodingShape.Statement (.dsub rd ra rb) :=
  one_word_shape rfl rfl rfl
theorem EncodingShape.dneg (rd ra : GrsAddr) : EncodingShape.Statement (.dneg rd ra) :=
  one_word_shape rfl rfl rfl
theorem EncodingShape.mul (rd ra rb : GrsAddr) : EncodingShape.Statement (.mul rd ra rb) :=
  one_word_shape rfl rfl rfl
theorem EncodingShape.muls (rd ra rb : GrsAddr) : EncodingShape.Statement (.muls rd ra rb) :=
  one_word_shape rfl rfl rfl
theorem EncodingShape.div (rd ra rb : GrsAddr) : EncodingShape.Statement (.div rd ra rb) :=
  one_word_shape rfl rfl rfl
theorem EncodingShape.divs (rd ra rb : GrsAddr) : EncodingShape.Statement (.divs rd ra rb) :=
  one_word_shape rfl rfl rfl
theorem EncodingShape.cmp (rd ra rb : GrsAddr) : EncodingShape.Statement (.cmp rd ra rb) :=
  one_word_shape rfl rfl rfl
theorem EncodingShape.dcmp (rd ra rb : GrsAddr) : EncodingShape.Statement (.dcmp rd ra rb) :=
  one_word_shape rfl rfl rfl
theorem EncodingShape.and (rd ra rb : GrsAddr) : EncodingShape.Statement (.and rd ra rb) :=
  one_word_shape rfl rfl rfl
theorem EncodingShape.or (rd ra rb : GrsAddr) : EncodingShape.Statement (.or rd ra rb) :=
  one_word_shape rfl rfl rfl
theorem EncodingShape.xor (rd ra rb : GrsAddr) : EncodingShape.Statement (.xor rd ra rb) :=
  one_word_shape rfl rfl rfl
theorem EncodingShape.dand (rd ra rb : GrsAddr) : EncodingShape.Statement (.dand rd ra rb) :=
  one_word_shape rfl rfl rfl
theorem EncodingShape.dor (rd ra rb : GrsAddr) : EncodingShape.Statement (.dor rd ra rb) :=
  one_word_shape rfl rfl rfl
theorem EncodingShape.dxor (rd ra rb : GrsAddr) : EncodingShape.Statement (.dxor rd ra rb) :=
  one_word_shape rfl rfl rfl
theorem EncodingShape.lsc (rd ra rb : GrsAddr) : EncodingShape.Statement (.lsc rd ra rb) :=
  one_word_shape rfl rfl rfl
theorem EncodingShape.rsc (rd ra rb : GrsAddr) : EncodingShape.Statement (.rsc rd ra rb) :=
  one_word_shape rfl rfl rfl
theorem EncodingShape.lsl (rd ra rb : GrsAddr) : EncodingShape.Statement (.lsl rd ra rb) :=
  one_word_shape rfl rfl rfl
theorem EncodingShape.rsl (rd ra rb : GrsAddr) : EncodingShape.Statement (.rsl rd ra rb) :=
  one_word_shape rfl rfl rfl
theorem EncodingShape.lsa (rd ra rb : GrsAddr) : EncodingShape.Statement (.lsa rd ra rb) :=
  one_word_shape rfl rfl rfl
theorem EncodingShape.rsa (rd ra rb : GrsAddr) : EncodingShape.Statement (.rsa rd ra rb) :=
  one_word_shape rfl rfl rfl
theorem EncodingShape.dlsc (rd ra rb : GrsAddr) : EncodingShape.Statement (.dlsc rd ra rb) :=
  one_word_shape rfl rfl rfl
theorem EncodingShape.drsc (rd ra rb : GrsAddr) : EncodingShape.Statement (.drsc rd ra rb) :=
  one_word_shape rfl rfl rfl
theorem EncodingShape.dlsl (rd ra rb : GrsAddr) : EncodingShape.Statement (.dlsl rd ra rb) :=
  one_word_shape rfl rfl rfl
theorem EncodingShape.drsl (rd ra rb : GrsAddr) : EncodingShape.Statement (.drsl rd ra rb) :=
  one_word_shape rfl rfl rfl
theorem EncodingShape.dlsa (rd ra rb : GrsAddr) : EncodingShape.Statement (.dlsa rd ra rb) :=
  one_word_shape rfl rfl rfl
theorem EncodingShape.drsa (rd ra rb : GrsAddr) : EncodingShape.Statement (.drsa rd ra rb) :=
  one_word_shape rfl rfl rfl
theorem EncodingShape.exts (rd ra : GrsAddr) (n : BitVec 7) : EncodingShape.Statement (.exts rd ra n) :=
  one_word_shape rfl rfl rfl
theorem EncodingShape.dexts (rd ra : GrsAddr) (n : BitVec 7) : EncodingShape.Statement (.dexts rd ra n) :=
  one_word_shape rfl rfl rfl
theorem EncodingShape.fldx (rd ra : GrsAddr) (j : BitVec 4) (qw : Bool) : EncodingShape.Statement (.fldx rd ra j qw) :=
  one_word_shape rfl rfl rfl
theorem EncodingShape.fldi (rd ra rb : GrsAddr) (j : BitVec 4) (qw : Bool) : EncodingShape.Statement (.fldi rd ra rb j qw) :=
  one_word_shape rfl rfl rfl
theorem EncodingShape.packa (rd ra : GrsAddr) (k : BitVec 7) : EncodingShape.Statement (.packa rd ra k) :=
  one_word_shape rfl rfl rfl
theorem EncodingShape.unpka (rd ra : GrsAddr) : EncodingShape.Statement (.unpka rd ra) :=
  one_word_shape rfl rfl rfl
theorem EncodingShape.packf (rd ra : GrsAddr) (k : BitVec 7) : EncodingShape.Statement (.packf rd ra k) :=
  one_word_shape rfl rfl rfl
theorem EncodingShape.unpkf (rd ra : GrsAddr) : EncodingShape.Statement (.unpkf rd ra) :=
  one_word_shape rfl rfl rfl
theorem EncodingShape.mov (rd ra : GrsAddr) : EncodingShape.Statement (.mov rd ra) :=
  one_word_shape rfl rfl rfl
theorem EncodingShape.ldi (rd : GrsAddr) (lit : Word) : EncodingShape.Statement (.ldi rd lit) :=
  ⟨_, _, rfl, rfl, by simp [Instr.length]⟩
theorem EncodingShape.rddr (rd : GrsAddr) : EncodingShape.Statement (.rddr rd) :=
  one_word_shape rfl rfl rfl
theorem EncodingShape.wrdr (ra : GrsAddr) : EncodingShape.Statement (.wrdr ra) :=
  one_word_shape rfl rfl rfl
theorem EncodingShape.rdpar (rd : GrsAddr) : EncodingShape.Statement (.rdpar rd) :=
  one_word_shape rfl rfl rfl
theorem EncodingShape.wrpar (ra : GrsAddr) : EncodingShape.Statement (.wrpar ra) :=
  one_word_shape rfl rfl rfl
theorem EncodingShape.rdkey (rd : GrsAddr) : EncodingShape.Statement (.rdkey rd) :=
  one_word_shape rfl rfl rfl
theorem EncodingShape.wrkey (ra : GrsAddr) : EncodingShape.Statement (.wrkey ra) :=
  one_word_shape rfl rfl rfl
theorem EncodingShape.rdstat (rd : GrsAddr) : EncodingShape.Statement (.rdstat rd) :=
  one_word_shape rfl rfl rfl
theorem EncodingShape.updf : EncodingShape.Statement (.updf) :=
  one_word_shape rfl rfl rfl
theorem EncodingShape.xinc (rd : GrsAddr) (lay : XLayout) : EncodingShape.Statement (.xinc rd lay) :=
  one_word_shape rfl rfl rfl
theorem EncodingShape.xdec (rd : GrsAddr) (lay : XLayout) : EncodingShape.Statement (.xdec rd lay) :=
  one_word_shape rfl rfl rfl
theorem EncodingShape.grsa (rd : GrsAddr) (kind : BitVec 2) (n : BitVec 4) : EncodingShape.Statement (.grsa rd kind n) :=
  one_word_shape rfl rfl rfl
theorem EncodingShape.xlt (rd ra : GrsAddr) (k : BrNum) (intent : BitVec 2) : EncodingShape.Statement (.xlt rd ra k intent) :=
  one_word_shape rfl rfl rfl
theorem EncodingShape.xltn (rd ra rb : GrsAddr) (k : BrNum) (intent : BitVec 2) : EncodingShape.Statement (.xltn rd ra rb k intent) :=
  one_word_shape rfl rfl rfl
theorem EncodingShape.ld (rd ra : GrsAddr) (k : BrNum) : EncodingShape.Statement (.ld rd ra k) :=
  one_word_shape rfl rfl rfl
theorem EncodingShape.st (ra rb : GrsAddr) (k : BrNum) : EncodingShape.Statement (.st ra rb k) :=
  one_word_shape rfl rfl rfl
theorem EncodingShape.dld (rd ra : GrsAddr) (k : BrNum) : EncodingShape.Statement (.dld rd ra k) :=
  one_word_shape rfl rfl rfl
theorem EncodingShape.dst (ra rb : GrsAddr) (k : BrNum) : EncodingShape.Statement (.dst ra rb k) :=
  one_word_shape rfl rfl rfl
theorem EncodingShape.ldbr (ra : GrsAddr) (k : BrNum) : EncodingShape.Statement (.ldbr ra k) :=
  one_word_shape rfl rfl rfl
theorem EncodingShape.stbr (rd : GrsAddr) (k : BrNum) : EncodingShape.Statement (.stbr rd k) :=
  one_word_shape rfl rfl rfl
theorem EncodingShape.basebd (ra rb : GrsAddr) (k : BrNum) : EncodingShape.Statement (.basebd ra rb k) :=
  one_word_shape rfl rfl rfl
theorem EncodingShape.ea (rd ra : GrsAddr) : EncodingShape.Statement (.ea rd ra) :=
  one_word_shape rfl rfl rfl
theorem EncodingShape.disp (rd ra : GrsAddr) : EncodingShape.Statement (.disp rd ra) :=
  one_word_shape rfl rfl rfl
theorem EncodingShape.rcschk (rd : GrsAddr) : EncodingShape.Statement (.rcschk rd) :=
  one_word_shape rfl rfl rfl
theorem EncodingShape.rcswr (ra : GrsAddr) : EncodingShape.Statement (.rcswr ra) :=
  one_word_shape rfl rfl rfl
theorem EncodingShape.rcswrs (tag : BitVec 2) : EncodingShape.Statement (.rcswrs tag) :=
  one_word_shape rfl rfl rfl
theorem EncodingShape.rcspop (rd : GrsAddr) : EncodingShape.Statement (.rcspop rd) :=
  one_word_shape rfl rfl rfl
theorem EncodingShape.vecrd (rd : GrsAddr) (c : BitVec 6) : EncodingShape.Statement (.vecrd rd c) :=
  one_word_shape rfl rfl rfl

end Sys2Proof.Laws
end

