-- ==== Sys2Proof/Machine/Assembler.lean ====
section
/-! DEFINITION. The assembler syntax of commands (R88 of 30_encoding.md): the text of one command to its words. Text that
R88 does not describe has none. Log entry 23. -/

namespace Sys2Proof.Machine

/-- How an operand of R86's "operands" column is written and where it goes (R88). -/
inductive AsmOperand where
  /-- A GRS register, in RD. -/
  | rd
  /-- A GRS register, in RA. -/
  | ra
  /-- A GRS register, in RB. -/
  | rb
  /-- A decimal or `0o` octal number, in K. -/
  | num
  /-- `B<n>`, in K[4:0]. -/
  | br
  /-- `F`, `R` or `W`, in K[6:5]; written after `B<n>`. -/
  | intent
  /-- A name of a partial-word designator, in K[4:0]. -/
  | field
  /-- The literal of LDI, an octal number. -/
  | lit
  deriving DecidableEq, Repr

/-- The fields of a command while its operands are read; a field that is not written stays 0 (R88). -/
structure AsmFields where
  rd : GrsAddr
  ra : GrsAddr
  rb : GrsAddr
  k : BitVec 7
  lit : List Word
  deriving DecidableEq, Repr

/-- A row of R86: mnemonic, operation code, operands. -/
structure AsmRow where
  name : String
  op : BitVec 8
  operands : List AsmOperand
  deriving DecidableEq, Repr

/-- The arithmetic commands of R86. -/
def asmArithmetic : List AsmRow :=
  [⟨"ADD", 0x01, [.rd, .ra, .rb]⟩, ⟨"SUB", 0x02, [.rd, .ra, .rb]⟩, ⟨"NEG", 0x03, [.rd, .ra]⟩,
   ⟨"DADD", 0x04, [.rd, .ra, .rb]⟩, ⟨"DSUB", 0x05, [.rd, .ra, .rb]⟩, ⟨"DNEG", 0x06, [.rd, .ra]⟩,
   ⟨"MUL", 0x07, [.rd, .ra, .rb]⟩, ⟨"MULS", 0x08, [.rd, .ra, .rb]⟩, ⟨"DIV", 0x09, [.rd, .ra, .rb]⟩,
   ⟨"DIVS", 0x0A, [.rd, .ra, .rb]⟩, ⟨"CMP", 0x0B, [.rd, .ra, .rb]⟩, ⟨"DCMP", 0x0C, [.rd, .ra, .rb]⟩]

/-- The logical and shift commands of R86. -/
def asmLogical : List AsmRow :=
  [⟨"AND", 0x10, [.rd, .ra, .rb]⟩, ⟨"OR", 0x11, [.rd, .ra, .rb]⟩, ⟨"XOR", 0x12, [.rd, .ra, .rb]⟩,
   ⟨"DAND", 0x14, [.rd, .ra, .rb]⟩, ⟨"DOR", 0x15, [.rd, .ra, .rb]⟩, ⟨"DXOR", 0x16, [.rd, .ra, .rb]⟩,
   ⟨"LSC", 0x20, [.rd, .ra, .rb]⟩, ⟨"RSC", 0x21, [.rd, .ra, .rb]⟩, ⟨"LSL", 0x22, [.rd, .ra, .rb]⟩,
   ⟨"RSL", 0x23, [.rd, .ra, .rb]⟩, ⟨"LSA", 0x24, [.rd, .ra, .rb]⟩, ⟨"RSA", 0x25, [.rd, .ra, .rb]⟩,
   ⟨"DLSC", 0x28, [.rd, .ra, .rb]⟩, ⟨"DRSC", 0x29, [.rd, .ra, .rb]⟩, ⟨"DLSL", 0x2A, [.rd, .ra, .rb]⟩,
   ⟨"DRSL", 0x2B, [.rd, .ra, .rb]⟩, ⟨"DLSA", 0x2C, [.rd, .ra, .rb]⟩, ⟨"DRSA", 0x2D, [.rd, .ra, .rb]⟩]

/-- The field and character commands of R86. -/
def asmField : List AsmRow :=
  [⟨"EXTS", 0x30, [.rd, .ra, .num]⟩, ⟨"DEXTS", 0x31, [.rd, .ra, .num]⟩, ⟨"FLDX", 0x32, [.rd, .ra, .field]⟩,
   ⟨"FLDI", 0x33, [.rd, .ra, .rb, .field]⟩, ⟨"PACKA", 0x34, [.rd, .ra, .num]⟩, ⟨"UNPKA", 0x35, [.rd, .ra]⟩,
   ⟨"PACKF", 0x36, [.rd, .ra, .num]⟩, ⟨"UNPKF", 0x37, [.rd, .ra]⟩]

/-- The register-file commands of R86. -/
def asmRegisterFile : List AsmRow :=
  [⟨"MOV", 0x40, [.rd, .ra]⟩, ⟨"LDI", 0x41, [.rd, .lit]⟩, ⟨"RDDR", 0x42, [.rd]⟩, ⟨"WRDR", 0x43, [.ra]⟩,
   ⟨"RDPAR", 0x44, [.rd]⟩, ⟨"WRPAR", 0x45, [.ra]⟩, ⟨"RDKEY", 0x46, [.rd]⟩, ⟨"WRKEY", 0x47, [.ra]⟩,
   ⟨"RDSTAT", 0x48, [.rd]⟩, ⟨"UPDF", 0x49, []⟩, ⟨"XINC", 0x4A, [.rd, .num]⟩, ⟨"XDEC", 0x4B, [.rd, .num]⟩,
   ⟨"GRSA", 0x4C, [.rd, .num]⟩]

/-- The translation commands of R86. -/
def asmTranslation : List AsmRow :=
  [⟨"XLT", 0x50, [.rd, .ra, .br, .intent]⟩, ⟨"XLTN", 0x51, [.rd, .ra, .rb, .br, .intent]⟩,
   ⟨"LD", 0x52, [.rd, .ra, .br]⟩, ⟨"ST", 0x53, [.ra, .rb, .br]⟩, ⟨"DLD", 0x54, [.rd, .ra, .br]⟩,
   ⟨"DST", 0x55, [.ra, .rb, .br]⟩, ⟨"LDBR", 0x56, [.ra, .br]⟩, ⟨"STBR", 0x57, [.rd, .br]⟩,
   ⟨"BASEBD", 0x58, [.ra, .rb, .br]⟩, ⟨"EA", 0x59, [.rd, .ra]⟩]

/-- The dispatch and RCS commands of R86. -/
def asmDispatch : List AsmRow :=
  [⟨"DISP", 0x60, [.rd, .ra]⟩, ⟨"RCSCHK", 0x61, [.rd]⟩, ⟨"RCSWR", 0x62, [.ra]⟩, ⟨"RCSWRS", 0x63, [.num]⟩,
   ⟨"RCSPOP", 0x64, [.rd]⟩, ⟨"VECRD", 0x65, [.rd, .num]⟩]

/-- The mnemonic, operation code and operands of each command (R86). -/
def asmTable : List AsmRow :=
  asmArithmetic ++ (asmLogical ++ (asmField ++ (asmRegisterFile ++ (asmTranslation ++ asmDispatch))))

/-- The names of the partial-word designators with their j and qw (R92; "with a `Q` name selecting qw = 1", R88). -/
def asmFieldNames : List (String × BitVec 4 × Bool) :=
  [("W", 0, false), ("H2", 1, false), ("H1", 2, false), ("XH2", 3, false), ("XH1", 4, false), ("T3", 5, false),
   ("T2", 6, false), ("T1", 7, false), ("S6", 8, false), ("S5", 9, false), ("S4", 10, false), ("S3", 11, false),
   ("S2", 12, false), ("S1", 13, false), ("U", 14, false), ("XU", 15, false), ("Q2", 4, true), ("Q4", 5, true),
   ("Q3", 6, true), ("Q1", 7, true)]

/-- The number of a list of digits of a base, most significant first; `acc` is the number so far. -/
def digitsNat (base acc : Nat) : List Char → Option Nat
  | [] => some acc
  | c :: cs =>
    let d := c.toNat - 48
    if 48 ≤ c.toNat ∧ d < base then digitsNat base (acc * base + d) cs else none

/-- A decimal number of at least one digit. DESIGN CHOICE: leading zeros are read like any digit, also in a register or
base-register number (`X01`, `r007`, `B03`), where R88 does not say (log entry 23). -/
def asmDecimal : List Char → Option Nat
  | [] => none
  | cs => digitsNat 10 0 cs

/-- The digits after `0o`, or nothing for another text. -/
def octalDigits : List Char → Option (List Char)
  | c :: d :: cs => if c = '0' ∧ d = 'o' then some cs else none
  | _ => none

/-- A decimal or `0o` octal number (R88). DESIGN CHOICE: no underscores, which R88 allows in LDI's literal and does not
mention here; leading zeros are read like any digit (log entry 23). -/
def asmNumber (cs : List Char) : Option Nat :=
  match octalDigits cs with
  | some [] => none
  | some ds => digitsNat 8 0 ds
  | none => asmDecimal cs

/-- "A literal of LDI is a 36-bit octal number written `0o` plus up to twelve digits, underscores allowed" (R88). DESIGN
CHOICE: at least one digit, and underscores anywhere after `0o` (log entry 23). -/
def asmLiteral (cs : List Char) : Option Word :=
  match octalDigits cs with
  | none => none
  | some ds =>
    let digits := ds.filter (· ≠ '_')
    if 1 ≤ digits.length ∧ digits.length ≤ 12 then (digitsNat 8 0 digits).map (BitVec.ofNat 36) else none

/-- The number of a name's register within its class, 0 to 15 (R21). -/
def asmRegNumber (c : RegClass) (cs : List Char) : Option GrsAddr :=
  match asmDecimal cs with
  | some n => if n < 16 then some (regAddr c (BitVec.ofNat 4 n)) else none
  | none => none

/-- "A register operand is a GRS name of rule R21 or `r<n>` for GRS address n in decimal" (R88). -/
def asmRegister : List Char → Option GrsAddr
  | [] => none
  | c :: cs =>
    if c = 'r' then
      match asmDecimal cs with
      | some n => if n < 128 then some (BitVec.ofNat 7 n) else none
      | none => none
    else if c = 'X' then asmRegNumber .x cs
    else if c = 'A' then asmRegNumber .a cs
    else if c = 'R' then asmRegNumber .r cs
    else if c = 'E' then
      match cs with
      | [] => none
      | d :: ds =>
        if d = 'R' then asmRegNumber .er ds
        else if d = 'X' then asmRegNumber .ex ds
        else if d = 'A' then asmRegNumber .ea ds
        else none
    else none

/-- `B<n>` (R88). -/
def asmBase : List Char → Option BrNum
  | [] => none
  | c :: cs =>
    match asmDecimal cs with
    | some n => if c = 'B' ∧ n < 32 then some (BitVec.ofNat 5 n) else none
    | none => none

/-- `F`, `R` or `W` (R85, R88). -/
def asmIntent (cs : List Char) : Option (BitVec 2) :=
  if cs = ['F'] then some 0 else if cs = ['R'] then some 1 else if cs = ['W'] then some 2 else none

/-- One operand read from its text into the fields (R88). -/
def asmOperand (o : AsmOperand) (cs : List Char) (f : AsmFields) : Option AsmFields :=
  match o with
  | .rd => (asmRegister cs).map fun r => { f with rd := r }
  | .ra => (asmRegister cs).map fun r => { f with ra := r }
  | .rb => (asmRegister cs).map fun r => { f with rb := r }
  | .num =>
    match asmNumber cs with
    | some n => if n < 128 then some { f with k := BitVec.ofNat 7 n } else none
    | none => none
  | .br => (asmBase cs).map fun b => { f with k := f.k ||| kBr b }
  | .intent => (asmIntent cs).map fun t => { f with k := f.k ||| kIntent t 0 }
  | .field => (asmFieldNames.find? fun p => p.1.toList = cs).map fun p => { f with k := kField p.2.1 p.2.2 }
  | .lit => (asmLiteral cs).map fun w => { f with lit := [w] }

/-- The operands in order, one text each. -/
def asmOperands : List AsmOperand → List (List Char) → AsmFields → Option AsmFields
  | [], [], f => some f
  | o :: os, t :: ts, f =>
    match asmOperand o t f with
    | some g => asmOperands os ts g
    | none => none
  | [], _ :: _, _ => none
  | _ :: _, [], _ => none

/-- The comma-separated texts of an operand field. DESIGN CHOICE: every space is dropped, those inside an operand
(`r 3`, `0o11 11`) like those around it, where R88 says nothing of spaces (log entry 23). -/
def asmSplit : List Char → List (List Char)
  | [] => []
  | c :: cs =>
    match asmSplit cs with
    | [] => if c = ',' then [[], []] else if c = ' ' then [] else [[c]]
    | t :: ts => if c = ',' then [] :: t :: ts else if c = ' ' then t :: ts else (c :: t) :: ts

/-- The words of one command written in the syntax of R88, nothing for any other text. -/
def assemble (line : List Char) : Option (List Word) :=
  let text := line.dropWhile (· = ' ')
  match asmTable.find? fun row => row.name.toList = text.takeWhile (· ≠ ' ') with
  | none => none
  | some row =>
    match asmOperands row.operands (asmSplit (text.dropWhile (· ≠ ' '))) ⟨0, 0, 0, 0, []⟩ with
    | none => none
    | some f => some (commandWord row.op f.rd f.ra f.rb f.k :: f.lit)

/-- The words of a program, one command a line (R88). DESIGN CHOICE: a line without a command, a blank one too, has no
words, and the program then has none (log entry 23). -/
def assembleAll : List (List Char) → Option (List Word)
  | [] => some []
  | l :: ls =>
    match assemble l, assembleAll ls with
    | some ws, some vs => some (ws ++ vs)
    | some _, none => none
    | none, _ => none

end Sys2Proof.Machine
end

