-- ==== Sys2Proof/Tests/Slice0.lean ====
section
/-! SUPPORT. Small tests: the well-formedness checks, a written-out word for every command, one or two steps of every
command, and for each obligation with hypotheses a state and operands that meet them. The expected values are those of
spec/95_test_vectors.md (row names in the docstrings) or hand calculation from the cited rule. -/

namespace Sys2Proof.Tests

open Sys2Proof Sys2Proof.Machine

/-- The reset state with some registers written. -/
def st (vs : List (GrsAddr × Word)) : State := vs.foldl (fun s p => s.setX p.1 p.2) State.reset

/-- What registers hold after `Done`. -/
def regs (r : Result) (qs : List GrsAddr) : Option (List Word) :=
  match r with
  | .next t => some (qs.map t.x)
  | .fault _ => none
  | .refused _ => none

/-- The status latch after `Done`. -/
def stat (r : Result) : Option Stat :=
  match r with
  | .next t => some t.stat
  | .fault _ => none
  | .refused _ => none

/-- Storage words after `Done`. -/
def words (r : Result) (qs : List AbsAddr) : Option (List Word) :=
  match r with
  | .next t => some (qs.map t.mem.read)
  | .fault _ => none
  | .refused _ => none

/-- A base register after `Done`. -/
def base (r : Result) (k : BrNum) : Option BaseReg :=
  match r with
  | .next t => some (t.b k)
  | .fault _ => none
  | .refused _ => none

/-- DR, PAR and KEY after `Done`. -/
def specials (r : Result) : Option (Word × Word × BitVec 18) :=
  match r with
  | .next t => some (t.dr, t.par, t.key)
  | .fault _ => none
  | .refused _ => none

/-- The fault of an outcome. -/
def fault (r : Result) : Option Fault :=
  match r with
  | .next _ => none
  | .fault f => some f
  | .refused _ => none

/-- The refusal of an outcome. -/
def refusal (r : Result) : Option Refusal :=
  match r with
  | .next _ => none
  | .fault _ => none
  | .refused f => some f

/-- One command after another. -/
def andThen (r : Result) (i : Instr) : Result :=
  match r with
  | .next t => exec i t
  | .fault f => .fault f
  | .refused f => .refused f

/-- −0 at 36 bits. -/
def nz : Word := 0o777777_777777

/-- `B3std` of the spec's vectors. -/
def b3std : BaseReg :=
  ⟨false, ⟨1, 2, 0o1000⟩, false, 512, 4095, ⟨2, 0o1234⟩, ⟨false, true, false⟩, ⟨true, true, true⟩⟩

/-- A state with `B[3] = B3std`, a KEY and registers. -/
def at3 (ring : BitVec 2) (domain : BitVec 16) (vs : List (GrsAddr × Word)) : State :=
  ((st vs).setB 3 b3std).setKey (ring ++ domain)

/-- `B[25]` of the spec's RCS vectors. -/
def rcsBr (lower : Nat) : BaseReg :=
  { BaseReg.canonicalVoid with void := false, base := ⟨0, 0, 0o10000⟩, lower := lower, upper := 0o777 }

/-- A state with the RCS bank of the vectors. -/
def rcs (lower : Nat) (vs : List (GrsAddr × Word)) : State := (st vs).setB 25 (rcsBr lower)

/-- A state with the Bank Descriptor Table of the vectors in B[17] and W6's descriptor with its word 0 given. -/
def tableState (w0 : Word) (vs : List (GrsAddr × Word)) : State :=
  let b : BaseReg := { BaseReg.canonicalVoid with void := false, base := ⟨0, 0, 0o20000⟩, lower := 0, upper := 511 }
  { (st vs).setB 17 b with
    mem := Memory.writeWords [] ⟨0, 0, 0o20050⟩ [w0, 0o001000_007777, 0o000001_000002, 0o000000_001000, 0, 0, 0, 0] }

/-- A state whose dispatch table holds `Handler(7)` at f = 0o10 of extended mode, with charge 2 (S18). -/
def dispState (vs : List (GrsAddr × Word)) : State :=
  { st vs with cfg := { resetConfig with
      dispatch := { resetConfig.dispatch with extended := resetConfig.dispatch.extended.set 8 (.handler 7) }
      qCharge := ⟨0, [(7, 2)]⟩ } }

/-! Well-formedness: each check refuses an ill-formed command -/

/-- R84: a pair at 127 in each register field. -/
theorem test_wf_pairs :
    Instr.wellFormed (.dadd 127 0 0) = false ∧
    Instr.wellFormed (.dsub 0 127 0) = false ∧
    Instr.wellFormed (.dand 0 0 127) = false ∧
    Instr.wellFormed (.dneg 127 0) = false ∧
    Instr.wellFormed (.dneg 0 127) = false ∧
    Instr.wellFormed (.mul 127 0 0) = false ∧
    Instr.wellFormed (.divs 127 0 0) = false ∧
    Instr.wellFormed (.div 127 0 0) = false ∧
    Instr.wellFormed (.div 0 127 0) = false ∧
    Instr.wellFormed (.dcmp 0 127 0) = false ∧
    Instr.wellFormed (.dcmp 0 0 127) = false ∧
    Instr.wellFormed (.dadd 126 126 126) = true ∧
    Instr.wellFormed (.div 126 126 127) = true := by decide

/-- R84: a pair at 127 of a shift. -/
theorem test_wf_shift_pairs :
    Instr.wellFormed (.dlsc 127 0 0) = false ∧
    Instr.wellFormed (.drsa 0 127 0) = false ∧
    Instr.wellFormed (.dlsl 126 126 127) = true := by decide

/-- R85: field sizes 0, 37 and 73. -/
theorem test_wf_sizes :
    Instr.wellFormed (.exts 0 0 0) = false ∧
    Instr.wellFormed (.exts 0 0 37) = false ∧
    Instr.wellFormed (.dexts 0 0 0) = false ∧
    Instr.wellFormed (.dexts 0 0 73) = false ∧
    Instr.wellFormed (.dexts 127 0 1) = false ∧
    Instr.wellFormed (.dexts 0 127 1) = false ∧
    Instr.wellFormed (.exts 127 127 36) = true ∧
    Instr.wellFormed (.dexts 126 126 72) = true := by decide

/-- R85: FLDI with U and XU. -/
theorem test_wf_fields :
    Instr.wellFormed (.fldi 0 0 0 14 false) = false ∧
    Instr.wellFormed (.fldi 0 0 0 15 true) = false ∧
    Instr.wellFormed (.fldi 0 0 0 13 true) = true := by decide

/-- R84: character groups past 127. -/
theorem test_wf_characters :
    Instr.wellFormed (.packa 0 125 4) = false ∧
    Instr.wellFormed (.packf 0 127 2) = false ∧
    Instr.wellFormed (.unpka 125 0) = false ∧
    Instr.wellFormed (.unpkf 123 0) = false ∧
    Instr.wellFormed (.packa 0 124 127) = true ∧
    Instr.wellFormed (.packa 127 127 0) = true ∧
    Instr.wellFormed (.packf 0 122 6) = true ∧
    Instr.wellFormed (.unpka 124 0) = true ∧
    Instr.wellFormed (.unpkf 122 0) = true := by decide

/-- R85: GRSA kind 3 and intent 3. -/
theorem test_wf_kinds :
    Instr.wellFormed (.grsa 0 3 0) = false ∧
    Instr.wellFormed (.xlt 0 0 0 3) = false ∧
    Instr.wellFormed (.xltn 0 0 0 0 3) = false ∧
    Instr.wellFormed (.grsa 0 2 15) = true ∧
    Instr.wellFormed (.xlt 126 0 31 2) = true := by decide

/-- R84: groups of the translation commands. -/
theorem test_wf_translation :
    Instr.wellFormed (.xlt 127 0 0 0) = false ∧
    Instr.wellFormed (.xltn 127 0 0 0 0) = false ∧
    Instr.wellFormed (.dld 127 0 0) = false ∧
    Instr.wellFormed (.dst 0 127 0) = false ∧
    Instr.wellFormed (.ldbr 125 0) = false ∧
    Instr.wellFormed (.stbr 125 0) = false ∧
    Instr.wellFormed (.ea 127 0) = false ∧
    Instr.wellFormed (.ldbr 124 0) = true ∧
    Instr.wellFormed (.stbr 124 0) = true := by decide

/-- R84: groups of the dispatch and RCS commands. -/
theorem test_wf_dispatch :
    Instr.wellFormed (.disp 127 0) = false ∧
    Instr.wellFormed (.rcswr 127) = false ∧
    Instr.wellFormed (.rcspop 127) = false ∧
    Instr.wellFormed (.disp 126 0) = true ∧
    Instr.wellFormed (.rcswr 126) = true ∧
    Instr.wellFormed (.rcspop 126) = true := by decide

/-! Decoding: a word of every command, its fields computed by R81, unused fields not 0 -/

/-- Commands 0x01 to 0x0C. RD 107, RA 22, RB 97. -/
theorem test_decode_arithmetic :
    decode [0o003531_330355] = .ok (.add 107 22 97) ∧
    decode [0o005531_330355] = .ok (.sub 107 22 97) ∧
    decode [0o007531_330355] = .ok (.neg 107 22) ∧
    decode [0o011531_330355] = .ok (.dadd 107 22 97) ∧
    decode [0o013531_330355] = .ok (.dsub 107 22 97) ∧
    decode [0o015531_330355] = .ok (.dneg 107 22) ∧
    decode [0o017531_330355] = .ok (.mul 107 22 97) ∧
    decode [0o021531_330355] = .ok (.muls 107 22 97) ∧
    decode [0o023531_330355] = .ok (.div 107 22 97) ∧
    decode [0o025531_330355] = .ok (.divs 107 22 97) ∧
    decode [0o027531_330355] = .ok (.cmp 107 22 97) ∧
    decode [0o031531_330355] = .ok (.dcmp 107 22 97) := by decide

/-- Commands 0x10 to 0x2D. RD 107, RA 22, RB 97. -/
theorem test_decode_logical :
    decode [0o041531_330355] = .ok (.and 107 22 97) ∧
    decode [0o043531_330355] = .ok (.or 107 22 97) ∧
    decode [0o045531_330355] = .ok (.xor 107 22 97) ∧
    decode [0o051531_330355] = .ok (.dand 107 22 97) ∧
    decode [0o053531_330355] = .ok (.dor 107 22 97) ∧
    decode [0o055531_330355] = .ok (.dxor 107 22 97) ∧
    decode [0o101531_330355] = .ok (.lsc 107 22 97) ∧
    decode [0o103531_330355] = .ok (.rsc 107 22 97) ∧
    decode [0o105531_330355] = .ok (.lsl 107 22 97) ∧
    decode [0o107531_330355] = .ok (.rsl 107 22 97) ∧
    decode [0o111531_330355] = .ok (.lsa 107 22 97) ∧
    decode [0o113531_330355] = .ok (.rsa 107 22 97) ∧
    decode [0o121531_330355] = .ok (.dlsc 107 22 97) ∧
    decode [0o123531_330355] = .ok (.drsc 107 22 97) ∧
    decode [0o125531_330355] = .ok (.dlsl 107 22 97) ∧
    decode [0o127531_330355] = .ok (.drsl 107 22 97) ∧
    decode [0o131531_330355] = .ok (.dlsa 107 22 97) ∧
    decode [0o133531_330355] = .ok (.drsa 107 22 97) := by decide

/-- Commands 0x30 to 0x37. RD 107, RA 22, RB 97. -/
theorem test_decode_field :
    decode [0o141531_330355] = .ok (.exts 107 22 109) ∧
    decode [0o143531_330355] = .ok (.dexts 107 22 109) ∧
    decode [0o145531_330355] = .ok (.fldx 107 22 13 false) ∧
    decode [0o147531_330326] = .ok (.fldi 107 22 97 6 true) ∧
    decode [0o151531_330355] = .ok (.packa 107 22 109) ∧
    decode [0o153531_330355] = .ok (.unpka 107 22) ∧
    decode [0o155531_330355] = .ok (.packf 107 22 109) ∧
    decode [0o157531_330355] = .ok (.unpkf 107 22) := by decide

/-- Commands 0x40 to 0x4C but LDI. RD 107, RA 22, RB 97. -/
theorem test_decode_register_file :
    decode [0o201531_330355] = .ok (.mov 107 22) ∧
    decode [0o205531_330355] = .ok (.rddr 107) ∧
    decode [0o207531_330355] = .ok (.wrdr 22) ∧
    decode [0o211531_330355] = .ok (.rdpar 107) ∧
    decode [0o213531_330355] = .ok (.wrpar 22) ∧
    decode [0o215531_330355] = .ok (.rdkey 107) ∧
    decode [0o217531_330355] = .ok (.wrkey 22) ∧
    decode [0o221531_330355] = .ok (.rdstat 107) ∧
    decode [0o223531_330355] = .ok (.updf) ∧
    decode [0o225531_330355] = .ok (.xinc 107 .exec24) ∧
    decode [0o227531_330376] = .ok (.xdec 107 .std) ∧
    decode [0o231531_330265] = .ok (.grsa 107 1 5) := by decide

/-- Commands 0x50 to 0x59. RD 107, RA 22, RB 97. -/
theorem test_decode_translation :
    decode [0o241531_330355] = .ok (.xlt 107 22 13 3) ∧
    decode [0o243531_330245] = .ok (.xltn 107 22 97 5 1) ∧
    decode [0o245531_330355] = .ok (.ld 107 22 13) ∧
    decode [0o247531_330355] = .ok (.st 22 97 13) ∧
    decode [0o251531_330355] = .ok (.dld 107 22 13) ∧
    decode [0o253531_330355] = .ok (.dst 22 97 13) ∧
    decode [0o255531_330355] = .ok (.ldbr 22 13) ∧
    decode [0o257531_330355] = .ok (.stbr 107 13) ∧
    decode [0o261531_330355] = .ok (.basebd 22 97 13) ∧
    decode [0o263531_330355] = .ok (.ea 107 22) := by decide

/-- Commands 0x60 to 0x65. RD 107, RA 22, RB 97. -/
theorem test_decode_dispatch :
    decode [0o301531_330355] = .ok (.disp 107 22) ∧
    decode [0o303531_330355] = .ok (.rcschk 107) ∧
    decode [0o305531_330355] = .ok (.rcswr 22) ∧
    decode [0o307531_330355] = .ok (.rcswrs 1) ∧
    decode [0o311531_330355] = .ok (.rcspop 107) ∧
    decode [0o313531_330355] = .ok (.vecrd 107 45) := by decide

/-- LDI with its literal, without it, and words the opcode map does not list (K1 to K3, K7); the spec's own words of
P1, P2, P4 and P6. -/
theorem test_decode_words :
    decode [0o203531_330355, 0o111111_111111] = .ok (.ldi 107 0o111111_111111) ∧
    decode [0o203531_330355] = .error .literalMissing ∧ decode [] = .error .noCommand ∧
    decode [0o000000_000000] = .error (.undefinedOp 0x00) ∧ decode [0o776000_000000] = .error (.undefinedOp 0xFF) ∧
    decode [0o046000_000000] = .error (.undefinedOp 0x13) ∧ decode [0o042030_040400] = .ok (.or 3 1 2) ∧
    decode [0o144030_100002] = .ok (.fldx 3 2 2 false) ∧ decode [0o246000_342003] = .ok (.st 7 8 3) ∧
    decode [0o300240_300000] = .ok (.disp 20 6) ∧ decode [0o260000_041403] = .ok (.basebd 1 6 3) ∧
    decodeTableWord 72 (0o111111_111111 * 2 ^ 36 + 0o202010_000000) = some (.ldi 1 0o111111_111111) := by decide

/-- R88: command lines of P1 to P6 and their words; text that is no command. -/
theorem test_assemble_lines :
    assemble "OR r3, r1, r2".toList = some [0o042030_040400] ∧
    assemble "LDI EX0, 0o1000".toList = some [0o203400_000000, 0o000000_001000] ∧
    assemble "FLDX r3, r2, H1".toList = some [0o144030_100002] ∧ assemble "UPDF".toList = some [0o222000_000000] ∧
    assemble "ST r10, r8, B3".toList = some [0o246000_502003] ∧
    assemble "XLT X2, A1, B3,W".toList = some [0o240020_640103] ∧ assemble "ADD r1, r2".toList = none ∧
    assemble "HALT r1".toList = none := by decide

/-- Text on which R88 is silent, as log entry 23 has it: spaces inside operands, leading zeros, underscores in k. -/
theorem test_assemble_choices :
    assemble "OR r 3, X01,r002".toList = assemble "OR r3, X1, r2".toList ∧
    assemble "EXTS r1, r2, 0o1 1".toList = assemble "EXTS r1, r2, 9".toList ∧
    assemble "STBR r1, B03".toList = assemble "STBR r1, B3".toList ∧ assemble "EXTS r1, r2, 0o1_1".toList = none ∧
    assemble "LDI r1, 0o1_1".toList = assemble "LDI r1, 0o11".toList := by decide

/-! Each command on small states -/

/-- A2, A8. -/
theorem test_add :
    regs (exec (.add 3 1 2) (st [(1, 0o400000_000000), (2, 0o777777_777776)])) [3] = some [0o377777_777777] ∧
    stat (exec (.add 3 1 2) (st [(1, 0o400000_000000), (2, 0o777777_777776)])) = some ⟨true, true, false, false⟩ ∧
    regs (exec (.add 3 1 2) (st [(1, 5), (2, 0o777777_777772)])) [3] = some [0] ∧
    stat (exec (.add 3 1 2) (st [(1, 5), (2, 0o777777_777772)])) = some ⟨true, false, false, false⟩ := by decide

/-- A15, A20. -/
theorem test_sub :
    regs (exec (.sub 3 1 2) (st [(1, nz), (2, 0)])) [3] = some [nz] ∧
    stat (exec (.sub 3 1 2) (st [(1, nz), (2, 0)])) = some ⟨true, false, false, false⟩ ∧
    regs (exec (.sub 3 1 2) (st [(1, 0o377777_777777), (2, 0o777777_777776)])) [3] = some [0o400000_000000] ∧
    stat (exec (.sub 3 1 2) (st [(1, 0o377777_777777), (2, 0o777777_777776)])) =
      some ⟨false, true, false, false⟩ := by decide

/-- A22, A23; the flags are cleared. -/
theorem test_neg :
    regs (exec (.neg 3 1) (st [(1, 5)])) [3] = some [0o777777_777772] ∧
    regs (exec (.neg 3 1) (st [(1, 0)])) [3] = some [nz] ∧
    stat (exec (.neg 3 1) ((st [(1, 5)]).setStat ⟨true, true, true, true⟩)) =
      some ⟨false, false, false, true⟩ := by decide

/-- A29, A31. -/
theorem test_dadd :
    regs (exec (.dadd 5 1 3) (st [(1, nz), (2, 0o777777_777776), (3, nz), (4, 0o777777_777776)])) [5, 6] =
      some [nz, 0o777777_777775] ∧
    regs (exec (.dadd 5 1 3) (st [(1, 0o377777_777777), (2, nz), (3, 0), (4, 1)])) [5, 6] = some [0o400000_000000, 0] ∧
    stat (exec (.dadd 5 1 3) (st [(1, 0o377777_777777), (2, nz), (3, 0), (4, 1)])) =
      some ⟨false, true, false, false⟩ := by decide

/-- A33, and the destination over a source. -/
theorem test_dsub :
    regs (exec (.dsub 5 1 3) (st [(1, 0), (2, 1), (3, 0), (4, 1)])) [5, 6] = some [0, 0] ∧
    stat (exec (.dsub 5 1 3) (st [(1, 0), (2, 1), (3, 0), (4, 1)])) = some ⟨true, false, false, false⟩ ∧
    regs (exec (.dsub 2 1 3) (st [(1, 0), (2, 7), (3, 0), (4, 1)])) [2, 3] = some [0, 6] := by decide

/-- A26. -/
theorem test_dneg :
    regs (exec (.dneg 3 1) (st [(1, 0), (2, 5)])) [3, 4] = some [nz, 0o777777_777772] := by decide

/-- A35, A40. -/
theorem test_mul :
    regs (exec (.mul 3 1 2) (st [(1, 0o777777_777774), (2, 4)])) [3, 4] = some [nz, 0o777777_777763] ∧
    regs (exec (.mul 3 1 2) (st [(1, 0o400000_000000), (2, 0o377777_777777)])) [3, 4] =
      some [0o600000_000000, 0o777777_777776] := by decide

/-- A43, A44. -/
theorem test_muls :
    regs (exec (.muls 3 1 2) (st [(1, 0o777776_777777), (2, 0o000001_000000)])) [3] = some [nz] ∧
    stat (exec (.muls 3 1 2) (st [(1, 0o777776_777777), (2, 0o000001_000000)])) = some ⟨false, true, false, false⟩ ∧
    stat (exec (.muls 3 1 2) (st [(1, 0o400000), (2, 0o400000)])) = some ⟨false, false, false, false⟩ := by decide

/-- A48, A56. -/
theorem test_div :
    regs (exec (.div 4 1 3) (st [(1, nz), (2, 0o777777_777770), (3, 2)])) [4, 5] =
      some [0o777777_777774, 0o777777_777776] ∧
    stat (exec (.div 4 1 3) (st [(1, nz), (2, 0o777777_777770), (3, 2)])) = some ⟨false, false, false, false⟩ ∧
    regs (exec (.div 4 1 3) (st [(1, 0o20), (2, 0), (3, 2)])) [4, 5] = some [0, 0] ∧
    stat (exec (.div 4 1 3) (st [(1, 0o20), (2, 0), (3, 2)])) = some ⟨false, false, true, false⟩ := by decide

/-- A57, A58: the record is I0 = 0o200000_000000. -/
theorem test_div_by_zero :
    fault (exec (.div 4 1 3) (st [(2, 5)])) = some (.arithmeticException) ∧
    fault (exec (.div 4 1 3) (st [(1, nz), (2, nz), (3, nz)])) = some (.arithmeticException) ∧
    Fault.arithmeticException.record.i0 = 0o200000_000000 := by decide

/-- A61, A64. -/
theorem test_divs :
    regs (exec (.divs 4 1 3) (st [(1, 7), (3, 0o777777_777775)])) [4, 5] = some [0o777777_777774, 1] ∧
    fault (exec (.divs 4 1 3) (st [(1, 5), (3, nz)])) = some (.arithmeticException) := by decide

/-- A65, A67, A69. -/
theorem test_cmp :
    regs (exec (.cmp 3 1 2) (st [(1, 5), (2, 3)])) [3] = some [1] ∧
    regs (exec (.cmp 3 1 2) (st [(1, 0), (2, nz)])) [3] = some [0] ∧
    regs (exec (.cmp 3 1 2) (st [(1, 0o400000_000000), (2, 0o377777_777777)])) [3] = some [0o777777_777776] := by decide

/-- A70, A71. -/
theorem test_dcmp :
    regs (exec (.dcmp 5 1 3) (st [(1, 0), (2, 1), (3, nz), (4, 0o777777_777776)])) [5] = some [1] ∧
    regs (exec (.dcmp 5 1 3) (st [(3, nz), (4, nz)])) [5] = some [0] := by decide

/-- B1, B2, B3. -/
theorem test_logic :
    regs (exec (.and 3 1 2) (st [(1, 0o777000_777000), (2, 0o750750_777777)])) [3] = some [0o750000_777000] ∧
    regs (exec (.or 3 1 2) (st [(1, 0o777000_777000), (2, 0o750750_777777)])) [3] = some [0o777750_777777] ∧
    regs (exec (.xor 3 1 2) (st [(1, 0o777000_777000), (2, 0o750750_777777)])) [3] = some [0o027750_000777] := by decide

/-- B8, B9, B10. -/
theorem test_double_logic :
    regs (exec (.dand 5 1 3) (st [(1, 0o123456_701234), (2, 0o567012_345670), (3, nz), (4, 0)])) [5, 6] =
      some [0o123456_701234, 0] ∧
    regs (exec (.dor 5 1 3) (st [(1, 0o123456_701234), (2, 0o567012_345670), (3, nz), (4, 0)])) [5, 6] =
      some [nz, 0o567012_345670] ∧
    regs (exec (.dxor 5 1 3) (st [(1, 0o123456_701234), (2, 0o567012_345670), (3, nz), (4, 0)])) [5, 6] =
      some [0o654321_076543, 0o567012_345670] := by decide

/-- Shift table, counts 3 and −3. -/
theorem test_circular :
    regs (exec (.lsc 3 1 2) (st [(1, 0o400000_000123), (2, 3)])) [3] = some [0o000000_001234] ∧
    regs (exec (.rsc 3 1 2) (st [(1, 0o400000_000123), (2, 3)])) [3] = some [0o340000_000012] ∧
    regs (exec (.lsc 3 1 2) (st [(1, 0o400000_000123), (2, 0o777777_777774)])) [3] = some [0o340000_000012] ∧
    regs (exec (.rsc 3 1 2) (st [(1, 0o400000_000123), (2, 0o777777_777774)])) [3] = some [0o000000_001234] := by decide

/-- Shift table, counts 3 and 36. -/
theorem test_logical :
    regs (exec (.lsl 3 1 2) (st [(1, 0o400000_000123), (2, 3)])) [3] = some [0o000000_001230] ∧
    regs (exec (.rsl 3 1 2) (st [(1, 0o400000_000123), (2, 3)])) [3] = some [0o040000_000012] ∧
    regs (exec (.lsl 3 1 2) (st [(1, 0o400000_000123), (2, 36)])) [3] = some [0] ∧
    regs (exec (.rsl 3 1 2) (st [(1, 0o400000_000123), (2, 36)])) [3] = some [0] := by decide

/-- Shift table, counts 3, −3 and 100. -/
theorem test_algebraic :
    regs (exec (.lsa 3 1 2) (st [(1, 0o400000_000123), (2, 3)])) [3] = some [0o400000_001237] ∧
    regs (exec (.rsa 3 1 2) (st [(1, 0o400000_000123), (2, 3)])) [3] = some [0o740000_000012] ∧
    regs (exec (.lsa 3 1 2) (st [(1, 0o400000_000123), (2, 0o777777_777774)])) [3] = some [0o740000_000012] ∧
    regs (exec (.rsa 3 1 2) (st [(1, 0o400000_000123), (2, 0o777777_777774)])) [3] = some [0o400000_001237] ∧
    regs (exec (.lsa 3 1 2) (st [(1, 0o400000_000123), (2, 100)])) [3] = some [nz] ∧
    regs (exec (.rsa 3 1 2) (st [(1, 0o400000_000123), (2, 100)])) [3] = some [nz] := by decide

/-- C1: both values of AlgLeftFill. -/
theorem test_algebraic_fill :
    regs (exec (.lsa 3 1 2) (st [(1, 0o777777_777772), (2, 1)])) [3] = some [0o777777_777765] ∧
    regs (exec (.lsa 3 1 2) { st [(1, 0o777777_777772),
      (2, 1)] with cfg := { resetConfig with algLeftFill := .zero } }) [3] =
      some [0o777777_777764] := by decide

/-- Shift table, counts 6 and 73. -/
theorem test_double_circular :
    regs (exec (.dlsc 5 1 3) (st [(1, 0o123456_701234), (2, 0o567012_345670), (3, 6)])) [5, 6] =
      some [0o345670_123456, 0o701234_567012] ∧
    regs (exec (.drsc 5 1 3) (st [(1, 0o123456_701234), (2, 0o567012_345670), (3, 6)])) [5, 6] =
      some [0o701234_567012, 0o345670_123456] ∧
    regs (exec (.dlsc 5 1 3) (st [(1, 0o123456_701234), (2, 0o567012_345670), (3, 73)])) [5, 6] =
      some [0o247135_602471, 0o356024_713560] ∧
    regs (exec (.drsc 5 1 3) (st [(1, 0o123456_701234), (2, 0o567012_345670), (3, 73)])) [5, 6] =
      some [0o051627_340516, 0o273405_162734] := by decide

/-- Shift table, counts 6 and −6. -/
theorem test_double_logical :
    regs (exec (.dlsl 5 1 3) (st [(1, 0o123456_701234), (2, 0o567012_345670), (3, 6)])) [5, 6] =
      some [0o345670_123456, 0o701234_567000] ∧
    regs (exec (.drsl 5 1 3) (st [(1, 0o123456_701234), (2, 0o567012_345670), (3, 6)])) [5, 6] =
      some [0o001234_567012, 0o345670_123456] ∧
    regs (exec (.dlsl 5 1 3) (st [(1, 0o123456_701234), (2, 0o567012_345670), (3, 0o777777_777771)])) [5, 6] =
      some [0o001234_567012, 0o345670_123456] ∧
    regs (exec (.drsl 5 1 3) (st [(1, 0o123456_701234), (2, 0o567012_345670), (3, 0o777777_777771)])) [5, 6] =
      some [0o345670_123456, 0o701234_567000] := by decide

/-- Shift table of n, counts 3 and 36. -/
theorem test_double_algebraic :
    regs (exec (.dlsa 5 1 3) (st [(1, 0o400000_000000), (2, 0o123), (3, 3)])) [5, 6] =
      some [0o400000_000000, 0o000000_001237] ∧
    regs (exec (.drsa 5 1 3) (st [(1, 0o400000_000000), (2, 0o123), (3, 3)])) [5, 6] =
      some [0o740000_000000, 0o000000_000012] ∧
    regs (exec (.dlsa 5 1 3) (st [(1, 0o400000_000000), (2, 0o123), (3, 36)])) [5, 6] = some [0o400000_000123, nz] ∧
    regs (exec (.drsa 5 1 3) (st [(1, 0o400000_000000), (2, 0o123), (3, 36)])) [5, 6] =
      some [nz, 0o400000_000000] := by decide

/-- E1, E2, E4. -/
theorem test_exts :
    regs (exec (.exts 3 1 9) (st [(1, 0o400)])) [3] = some [0o777777_777400] ∧
    regs (exec (.exts 3 1 9) (st [(1, 0o123000_000377)])) [3] = some [0o123000_000377] ∧
    regs (exec (.exts 3 1 36) (st [(1, 0o400000_000000)])) [3] = some [0o400000_000000] := by decide

/-- E6, E7. -/
theorem test_dexts :
    regs (exec (.dexts 3 1 36) (st [(2, 0o400000_000000)])) [3, 4] = some [nz, 0o400000_000000] ∧
    regs (exec (.dexts 3 1 72) (st [(1, 0o400000_000000)])) [3, 4] = some [0o400000_000000, 0] := by decide

/-- FLDX table: T2, XH1, Q2, S3, XU. -/
theorem test_fldx :
    regs (exec (.fldx 3 1 6 false) (st [(1, 0o750750_777777)])) [3] = some [0o777777_775077] ∧
    regs (exec (.fldx 3 1 4 false) (st [(1, 0o750750_777777)])) [3] = some [0o777777_750750] ∧
    regs (exec (.fldx 3 1 4 true) (st [(1, 0o750750_777777)])) [3] = some [0o000000_000750] ∧
    regs (exec (.fldx 3 1 11 true) (st [(1, 0o750750_777777)])) [3] = some [0o50] ∧
    regs (exec (.fldx 3 1 15 false) (st [(1, 0o750750_777777)])) [3] = some [nz] := by decide

/-- FLDI table: T2, Q2, S1; j = 14 is BadCommand. -/
theorem test_fldi :
    regs (exec (.fldi 3 1 2 6 false) (st [(1, 0o123456_654321), (2, 0o777000_777000)])) [3] = some [0o777043_217000] ∧
    regs (exec (.fldi 3 1 2 4 true) (st [(1, 0o123456_654321), (2, 0o777000_777000)])) [3] = some [0o777321_777000] ∧
    regs (exec (.fldi 3 1 2 13 false) (st [(1, 0o123456_654321), (2, 0o777000_777000)])) [3] = some [0o217000_777000] ∧
    fault (exec (.fldi 3 1 2 14 false) (st [(1, 0o123456_654321), (2, 0o777000_777000)])) =
      some (.badCommand 0) := by decide

/-- H1, H2, H4. -/
theorem test_packa :
    regs (exec (.packa 5 1 3) (st [(1, 0o101), (2, 0o102), (3, 0o103)])) [5] = some [0o101102_103040] ∧
    regs (exec (.packa 5 127 0) (st [])) [5] = some [0o040040_040040] ∧
    regs (exec (.packa 5 1 1) (st [(1, 0o777000_000501)])) [5] = some [0o501040_040040] := by decide

/-- H5. -/
theorem test_unpka :
    regs (exec (.unpka 124 1) (st [(1, 0o110105_114114)])) [124, 125, 126, 127] =
      some [0o110, 0o105, 0o114, 0o114] := by decide

/-- H6. -/
theorem test_packf :
    regs (exec (.packf 7 1 5) (st [(1, 0o15), (2, 0o12), (3, 0o21), (4, 0o21), (5, 0o24)])) [7] =
      some [0o151221_212405] := by decide

/-- H9. -/
theorem test_unpkf :
    regs (exec (.unpkf 2 1) (st [(1, 0o060710_050505)])) [2, 3, 4, 5, 6, 7] =
      some [0o06, 0o07, 0o10, 0o05, 0o05, 0o05] := by decide

/-- H11, H12, H13, H15; a character above 0o777. -/
theorem test_strings :
    toAsciiWords ['H', 'E', 'L', 'L', 'O'] 1 = .ok [0o110105_114114] ∧
    toFieldataWords ['H', 'E', 'L', 'L', 'O'] 1 = [0o151221_212405] ∧
    toFieldataWords ['a', 'b', 'c'] 1 = [0o050505_050505] ∧ toFieldataWords ['1', '1', '0', '0'] 1 = [0o616160_600505] ∧
    toAsciiWords ['Ω'] 1 = .error (.wideCharacter 937) := by decide

/-- G1. -/
theorem test_mov :
    regs (exec (.mov 3 1) (st [(1, nz)])) [3] = some [nz] := by decide

/-- G2: LDI through a step; the position moves by 2. -/
theorem test_ldi :
    (match step { State.reset with cmds := [0o202010_000000, 0o111111_111111] } with
      | .next t => some (t.x 1, t.cp)
      | .fault _ => none
      | .refused _ => none) = some (0o111111_111111, 2) := by decide

/-- G3. -/
theorem test_dr :
    regs (andThen (exec (.wrdr 1) (st [(1, 0o000002_000000)])) (.rddr 2)) [2] = some [0o000002_000000] := by decide

/-- G5. -/
theorem test_par :
    regs (andThen (exec (.wrpar 1) (st [(1, 0o100005_000100)])) (.rdpar 2)) [2] = some [0o100005_000100] := by decide

/-- G6. -/
theorem test_key :
    regs (andThen (exec (.wrkey 1) (st [(1, 0o777777_400017)])) (.rdkey 2)) [2] = some [0o000000_400017] := by decide

/-- R27, R30: DR.basicModeEnabled, processorPrivilege and quarterWordModeEnabled, and the fields of the PAR of G5. -/
theorem test_fields :
    (State.reset.setDr 0o000016_000010).drField .basicModeEnabled = 1 ∧
    (State.reset.setDr 0o000016_000010).drField .processorPrivilege = 3 ∧
    (State.reset.setDr 0o000016_000010).drField .quarterWordModeEnabled = 1 ∧
    parL 0o100005_000100 = 1 ∧
    parBDI 0o100005_000100 = 5 ∧
    parPC 0o100005_000100 = 0o100 := by decide

/-- G8, G9. -/
theorem test_rdstat :
    regs (andThen (exec (.add 3 1 2) (st [(1, 0o377777_777777), (2, 1)])) (.rdstat 4)) [4] = some [4] ∧
    regs (andThen (exec (.sub 3 1 1) (st [(1, 7)])) (.rdstat 4)) [4] = some [8] := by decide

/-- G10, G11, and STAT.d to DR[12]. -/
theorem test_updf :
    specials (exec .updf (State.reset.setStat ⟨true, true, false, false⟩)) = some (0o000000_600000, 0, 0) ∧
    specials (exec .updf (State.reset.setDr 0o000000_610000)) = some (0, 0, 0) ∧
    specials (exec .updf (State.reset.setStat ⟨false, false, true, true⟩)) = some (0o000000_010000, 0, 0) := by decide

/-- G14, G15, G17. -/
theorem test_xinc :
    regs (exec (.xinc 1 .std) (st [(1, 0o000001_377777)])) [1] = some [0o000001_400000] ∧
    regs (exec (.xinc 1 .std) (st [(1, 0o000000_777777)])) [1] = some [0] ∧
    regs (exec (.xinc 1 .exec24) (st [(1, 0o000100_777777)])) [1] = some [0o000101_000000] := by decide

/-- G16, G19. -/
theorem test_xdec :
    regs (exec (.xdec 1 .std) (st [(1, 0o777776_000000)])) [1] = some [0o777776_000001] ∧
    regs (exec (.xdec 1 .exec24) (st [(1, 0o000300_000003)])) [1] = some [0o000300_000000] := by decide

/-- G20, G23, G25, G26. -/
theorem test_grsa :
    regs (exec (.grsa 1 0 3) State.reset) [1] = some [15] ∧
    regs (exec (.grsa 1 0 3) (State.reset.setDr 0o000001_000000)) [1] = some [111] ∧
    regs (exec (.grsa 1 2 3) (State.reset.setDr 0o000001_000000)) [1] = some [83] ∧
    fault (exec (.grsa 1 3 3) State.reset) = some (.badCommand 0) := by decide

/-- T3, T6: the boundary of the ring check. -/
theorem test_xlt :
    regs (exec (.xlt 1 7 3 1) (at3 2 0o7777 [(7, 600)])) [1, 2] = some [0o000001_000002, 0o000000_002130] ∧
    fault (exec (.xlt 1 7 3 2) (at3 2 0o7777 [(7, 600)])) = some (.refViol .write false 3 600) ∧
    regs (exec (.xlt 1 7 3 2) (at3 0 0 [(7, 600)])) [1, 2] = some [0o000001_000002, 0o000000_002130] := by decide

/-- T7, T8, T9, T10: limits before permissions; the record of T10. -/
theorem test_xlt_limits :
    fault (exec (.xlt 1 7 3 2) (at3 3 0o7777 [(7, 511)])) = some (.refViol .limits false 3 511) ∧
    fault (exec (.xlt 1 7 3 2) (at3 3 0o7777 [(7, 512)])) = some (.refViol .write false 3 512) ∧
    fault (exec (.xlt 1 7 3 2) (at3 3 0o7777 [(7, 4095)])) = some (.refViol .write false 3 4095) ∧
    fault (exec (.xlt 1 7 3 2) (at3 3 0o7777 [(7, 4096)])) = some (.refViol .limits false 3 4096) ∧
    (Fault.refViol .limits false 3 4096).record.i0 = 0o100020_600000 := by decide

/-- T15, T16, T17. -/
theorem test_xltn :
    regs (exec (.xltn 1 7 8 3 1) (at3 3 0o7777 [(7, 4090), (8, 6)])) [1, 2] = some [0o000001_000002, 0o000000_010772] ∧
    fault (exec (.xltn 1 7 8 3 1) (at3 3 0o7777 [(7, 4090), (8, 7)])) = some (.refViol .limits false 3 4090) ∧
    fault (exec (.xltn 1 7 8 3 1) (at3 3 0o7777 [(7, 4090)])) = some (.badCommand 0) := by decide

/-- P4: a store and a load of it. -/
theorem test_st_ld :
    regs (andThen (exec (.st 7 8 3) (at3 3 0o1234 [(7, 600), (8, 0o123)])) (.ld 9 7 3)) [9] = some [0o123] ∧
    words (exec (.st 7 8 3) (at3 3 0o1234 [(7, 600), (8, 0o123)])) [⟨1, 2, 0o2130⟩, ⟨1, 2, 0o2131⟩] =
      some [0o123, 0] := by decide

/-- T21. -/
theorem test_ld_absent :
    refusal (exec (.ld 9 7 3) { at3 2 0o1234 [(7, 600)] with cfg := { resetConfig with storage := ⟨false, []⟩ } }) =
      some (.noStorage ⟨1, 2, 0o2130⟩) := by decide

/-- T19. -/
theorem test_dld :
    fault (exec (.dld 1 7 3) (at3 2 0o1234 [(7, 4095)])) = some (.refViol .limits false 3 4095) := by decide

/-- T20, and DLD of it. -/
theorem test_dst :
    words (exec (.dst 7 8 3) (at3 2 0o1234 [(7, 600), (8, 7), (9, 8)])) [⟨1, 2, 0o2130⟩, ⟨1, 2, 0o2131⟩] = some [7, 8] ∧
    regs (andThen (exec (.dst 7 8 3) (at3 2 0o1234 [(7, 600), (8, 7), (9, 8)])) (.dld 1 7 3)) [1, 2] =
      some [7, 8] := by decide

/-- T22, T26. -/
theorem test_ldbr :
    base (exec (.ldbr 1 3) (st [(1, 0o270000_401234), (2, 0o001000_007777), (3, 0o000001_000002),
      (4, 0o1000)])) 3 = some b3std ∧
    base (exec (.ldbr 1 3) (st [(1, 0o270000_401234), (2, 0o002000_000777), (3, 0o000001_000002), (4, 0o1000)])) 3 =
      some BaseReg.canonicalVoid := by decide

/-- T23, T24, T27. -/
theorem test_stbr :
    regs (exec (.stbr 1 3) (State.reset.setB 3 b3std)) [1, 2, 3, 4] =
      some [0o270000_401234, 0o001000_007777, 0o000001_000002, 0o1000] ∧
    regs (exec (.stbr 1 3) (st [(2, 5)])) [1, 2, 3, 4] = some [0o000004_000000, 0, 0, 0] ∧
    regs (exec (.stbr 1 3) (State.reset.setB 3
      ⟨false, ⟨0, 1, 0o100⟩, true, 32768, 64063, ⟨1, 7⟩, ⟨false, true, false⟩, ⟨true, true, true⟩⟩)) [1, 2, 3, 4] = some [0o270020_200007, 0o001000_001750, 1, 0o100] := by decide

/-- T31, T34, T36. -/
theorem test_basebd :
    base (exec (.basebd 1 6 3) (tableState 0o270300_401234 [(1, 0o100005_000000)])) 3 = some b3std ∧
    base (exec (.basebd 1 6 3) (tableState 0o270300_401234 [(1, 0o100005_000000), (6, 512)])) 3 =
      some { b3std with base := ⟨1, 2, 0o2000⟩, lower := 0, upper := 3583 } ∧
    base (exec (.basebd 1 6 3) (tableState 0o270300_401234 [(1, 0o100005_000000), (6, 4096)])) 3 =
      some BaseReg.canonicalVoid := by decide

/-- T32, T33, T37, T39. -/
theorem test_basebd_faults :
    fault (exec (.basebd 1 6 3) (tableState 0 [(1, 0o000005_000000)])) = some (.addrExc .invalidLBDI 0 5) ∧
    fault (exec (.basebd 1 6 3) ((tableState 0 [(1, 0o000005_000000)]).setDr 0o004000_000000)) =
      some (.termAddrExc .invalidLBDI 0 5) ∧
    fault (exec (.basebd 1 6 3) (tableState 0 [(1, 0o100100_000000)])) = some (.addrExc .outsideTable 1 64) ∧
    fault (exec (.basebd 1 6 3) (tableState 0o270340_401234 [(1, 0o100005_000000)])) =
      some (.addrExc .generalFault 1 5) ∧
    (Fault.addrExc .outsideTable 1 64).record.i0 = 0o110044_200000 := by decide

/-- T41, T43. -/
theorem test_ea_basic :
    regs (exec (.ea 20 14) ((st [(14, 0o100005_400100),
      (5, 0o000002_000010)]).setDr 0o000002_000000)) [20, 21, 5] = some [0o110, 0, 0o000002_000012] ∧
    stat (exec (.ea 20 14) ((st [(14, 0o100000_200500)]).setDr 0o000002_000000)) =
      some ⟨false, false, false, true⟩ := by decide

/-- T45. -/
theorem test_ea_extended :
    regs (exec (.ea 20 14) ((st [(14, 0o100022_650010),
      (98, 0o000177_777776)]).setDr 0o002001_000000)) [20, 21, 98] = some [7, 21, 0o000100_000000] := by decide

/-- S18, S20. -/
theorem test_disp :
    regs (exec (.disp 20 6) (dispState [(6, 0o100000_000000)])) [20, 21] = some [7, 2] ∧
    fault (exec (.disp 20 6) ((dispState [(6, 0o100000_000000)]).setDr 0o000002_000000)) =
      some (.invalidInstruction 0o100000_000000) := by decide

/-- S3, S4, S5. -/
theorem test_rcschk :
    regs (exec (.rcschk 10) (rcs 0o100 [(96, 0o000005_000102)])) [10, 96] = some [0o100, 0o000005_000100] ∧
    fault (exec (.rcschk 10) (rcs 0o100 [(96, 0o101)])) = some (.rcsFault .overflow 0o77) ∧
    fault (exec (.rcschk 10) (rcs 0 [(96, 1)])) = some (.rcsFault .overflow 0o777777_777776) := by decide

/-- S7, and a frame. -/
theorem test_rcswr :
    fault (exec (.rcswr 20) (rcs 0o100 [(96, 0o1000)])) = some (.refViol .limits false 25 0o1000) ∧
    words (exec (.rcswr 20) (rcs 0o100 [(96, 0o776), (20, 3), (21, 4)])) [⟨0, 0, 0o10776⟩, ⟨0, 0, 0o10777⟩] =
      some [3, 4] := by decide

/-- S8, S9. -/
theorem test_rcswrs :
    words (exec (.rcswrs 3) ((((rcs 0o100 [(96, 0o776)]).setPar 0o100005_000100).setDr 0o000001_000000).setKey 0o400017))
      [⟨0, 0, 0o10776⟩, ⟨0, 0, 0o10777⟩] = some [0o100005_000101, 0o600100_400017] ∧
    words (exec (.rcswrs 1) ((((rcs 0o100 [(96, 0o776)]).setPar 0o100005_777777).setDr 0o000001_000000).setKey 0o400017))
      [⟨0, 0, 0o10776⟩, ⟨0, 0, 0o10777⟩] = some [0o100005_000000, 0o200100_400017] := by decide

/-- S10, S11, S13. -/
theorem test_rcspop :
    regs (exec (.rcspop 30) { rcs 0o100 [(96, 0o776)] with mem := [(⟨0, 0, 0o10776⟩, 5),
      (⟨0, 0, 0o10777⟩, 6)] }) [30, 31, 96] = some [5, 6, 0o1000] ∧
    fault (exec (.rcspop 30) (rcs 0o100 [(96, 0o1000)])) = some (.rcsFault .underflow 0o1002) ∧
    fault (exec (.rcspop 30) (rcs 0o100 [(96, 0o76)])) = some (.refViol .limits false 25 0o76) := by decide

/-- S16, S17. -/
theorem test_vecrd :
    regs (exec (.vecrd 3 0o17) { (st []).setB 16 { rcsBr 0 with base := ⟨0, 0, 0o100⟩, upper := 0o17 } with mem := [(⟨0, 0, 0o117⟩, 7)] }) [3] = some [7] ∧
    fault (exec (.vecrd 3 0o20) ((st []).setB 16 { rcsBr 0 with base := ⟨0, 0, 0o100⟩, upper := 0o17 })) =
      some (.refViol .limits false 16 0o20) := by decide

/-- K1 through a step: the record of R332. -/
theorem test_bad_words :
    fault (step { State.reset with cmds := [0] }) = some (.badCommand 0) ∧
    (Fault.badCommand 0).record.i0 = 0o160020_000000 := by decide

/-- G4, S15, T12, T13: the spec outcome for unwritten registers (log entry 5). -/
theorem test_unwritten_view :
    refusal (specExec (.rddr 1) State.reset) = some .unwritten ∧
    refusal (specExec (.rcschk 1) State.reset) = some .unwritten ∧
    refusal (specExec (.xlt 1 7 3 1) ((st [(7, 600)]).setB 3 b3std)) = some .unwritten ∧
    fault (specExec (.xlt 1 7 3 1) ((st [(7, 4096)]).setB 3 b3std)) = some (.refViol .limits false 3 4096) := by decide

/-- R72, R384: a host read and a new run draw anew, past what a command that faulted may have read; a host read of a word no
other agent writes is what was stored. -/
theorem test_host_draws :
    let s : State := { (State.reset.hostWrite ⟨0, 0, 5⟩ 9) with cfg := { resetConfig with shared := [⟨0, 0, 6, none⟩] } }
    (s.hostRead ⟨0, 0, 5⟩).1 = 9 ∧ (s.hostRead ⟨0, 0, 6⟩).1 = Config.foreignDraw 8 ∧
    ((s.hostRead ⟨0, 0, 6⟩).2.hostRead ⟨0, 0, 6⟩).1 = Config.foreignDraw 17 ∧
    (s.newRun []).readWord 0 ⟨0, 0, 6⟩ = Config.foreignDraw 8 :=
  ⟨rfl, rfl, rfl, rfl⟩

/-! Witnesses: for each obligation with hypotheses, states and operands that meet them, at the boundaries of its clauses -/

theorem witness_UndefinedOpIsBadCommand :
    ({ State.reset with cmds := [0o776000_000000] } : State).cmds[0]? = some 0o776000_000000 ∧
    (0o776000_000000 : Word).toNat / 2 ^ 28 = 0xFF ∧ (0o046000_000000 : Word).toNat / 2 ^ 28 = 0x13 := by decide

theorem witness_LdiTakesLiteral :
    (0o202010_000000 : Word).toNat / 2 ^ 28 = 0x41 ∧
    ({ State.reset with cmds := [0o202010_000000] } : State).cmds.length = State.reset.cp + 1 ∧
    ({ State.reset with cmds := [0o202010_000000, 5] } : State).cmds[0 + 1]? = some 5 := by decide

/-- P1's list, whose first command decodes and completes; a command that faults; one that is refused. -/
theorem witness_StepRunsDecoded :
    decode [0o202010_000000, 0o111111_111111] = .ok (.ldi 1 0o111111_111111) ∧
    (stat (exec (.ldi 1 0o111111_111111) State.reset)).isSome = true ∧
    decode [0o312040_000010] = .ok (.vecrd 4 8) ∧ (fault (exec (.vecrd 4 8) State.reset)).isSome = true ∧
    (refusal (exec (.ld 9 7 3)
      { at3 2 0o1234 [(7, 600)] with cfg := { resetConfig with storage := ⟨false, []⟩ } })).isSome = true := by decide

theorem witness_StepAdvancesPosition :
    (stat (step { State.reset with cmds := [0o202010_000000, 5] })).isSome = true ∧
    (stat (step { State.reset with cmds := [0o222000_000000] })).isSome = true ∧
    (stat (step State.reset)).isSome = true := by decide

/-- A step that stores: ST of P4. -/
theorem witness_StepKeepsStorageForm :
    let s : State := { at3 3 0o1234 [(7, 600), (8, 0o123)] with cmds := [0o246000_342003] }
    s.memInv = true ∧ (stat (step s)).isSome = true := by decide

/-- A step that changes a base register: LDBR of P3, on the reset state. -/
theorem witness_StepKeepsBaseRegisters :
    let s : State := { st [(5, 0o10000)] with cmds := [0o254000_100031] }
    (∀ k, ((s.b k).void = true ↔ (s.b k).upper < (s.b k).lower) ∧
      ((s.b k).void = true → s.b k = BaseReg.canonicalVoid)) ∧ s.brInv = true ∧ (stat (step s)).isSome = true ∧
    base (step s) 25 ≠ some BaseReg.canonicalVoid := by
  refine ⟨fun k => ?_, by decide, by decide, by decide⟩
  have h : ∀ b : BaseReg, b = BaseReg.canonicalVoid →
      (b.void = true ↔ b.upper < b.lower) ∧ (b.void = true → b = BaseReg.canonicalVoid) := by
    rintro _ rfl
    decide
  exact h _ (by simp : (Vector.replicate 32 BaseReg.canonicalVoid)[k.toNat]'k.isLt = BaseReg.canonicalVoid)

/-- Commands that complete, one for each kind of state written. -/
theorem witness_StateWriters :
    (stat (exec (.wrdr 1) State.reset)).isSome = true ∧ (stat (exec (.wrpar 1) State.reset)).isSome = true ∧
    (stat (exec (.wrkey 1) State.reset)).isSome = true ∧ (stat (exec (.ldbr 1 3) State.reset)).isSome = true ∧
    (stat (exec (.st 7 8 3) (at3 2 0o1234 [(7, 600)]))).isSome = true := by decide

theorem witness_StatusWriters :
    stat (exec (.add 3 1 2) (st [(1, 0o377777_777777), (2, 1)])) = some ⟨false, true, false, false⟩ ∧
    stat (exec (.ea 20 14) ((st [(14, 0o100000_200500)]).setDr 0o000002_000000)) = some ⟨false, false, false, true⟩ ∧
    stat (exec (.mov 3 1) State.reset) = some State.reset.stat := by decide

/-- Sums at the two ends of the range, zero sums of both kinds, and −0 + −0. -/
theorem witness_AddOverflowExactly :
    (val (0o377777_777777 : Word) + val (0 : Word)).natAbs = 2 ^ 35 - 1 ∧
    2 ^ 35 - 1 < (val (0o377777_777777 : Word) + val (1 : Word)).natAbs ∧
    val (5 : Word) + val (0o777777_777772 : Word) = 0 ∧ (5 : Word) ≠ negZero 36 ∧
    (val (1 : DWord) + val (0 : DWord)).natAbs ≤ 2 ^ 71 - 1 ∧ (negZero 36).msb = true := by decide

/-- The group premises of the arithmetic and logical statements, met by 126. -/
theorem witness_AddSubNegResult : (126 : GrsAddr).toNat + 2 ≤ 128 ∧ (0 : GrsAddr).toNat + 2 ≤ 128 := by decide

theorem witness_MultiplyResult : (126 : GrsAddr).toNat + 2 ≤ 128 := by decide

/-- Divisors of both clauses, the two zeros among them. -/
theorem witness_DivideResult :
    (126 : GrsAddr).toNat + 2 ≤ 128 ∧ ((st [(3, 1)]).x 3 ≠ 0 ∧ (st [(3, 1)]).x 3 ≠ negZero 36) ∧
    (st [(3, 0)]).x 3 = 0 ∧ (st [(3, nz)]).x 3 = negZero 36 := by decide

theorem witness_CompareResult : (126 : GrsAddr).toNat + 2 ≤ 128 := by decide

theorem witness_BitwiseResult : (126 : GrsAddr).toNat + 2 ≤ 128 := by decide

theorem witness_CircularShiftResult : (126 : GrsAddr).toNat + 2 ≤ 128 := by decide

theorem witness_LogicalShiftResult : (126 : GrsAddr).toNat + 2 ≤ 128 := by decide

theorem witness_AlgebraicShiftResult : (126 : GrsAddr).toNat + 2 ≤ 128 := by decide

theorem witness_KernelLaws : (36 = 36 ∨ 36 = 72) ∧ (72 = 36 ∨ 72 = 72) := by decide

theorem witness_ShiftLaws : ((36 : Nat) = 36 ∨ (36 : Nat) = 72) ∧ (36 : Nat) ≤ 36 ∧ (72 : Nat) ≤ 72 := by decide

/-- The largest product that fits, positive and negative. -/
theorem witness_AlgebraicShiftScales :
    (val (0o177777_777777 : Word) * 2 ^ 1).natAbs ≤ 2 ^ 35 - 1 ∧
    (val (0o600000_000000 : Word) * 2 ^ 1).natAbs ≤ 2 ^ 35 - 1 ∧
      (val (3 : DWord) * 2 ^ 5).natAbs ≤ 2 ^ 71 - 1 := by decide

theorem witness_SignExtendResult :
    1 ≤ (1 : BitVec 7).toNat ∧ 1 ≤ (36 : BitVec 7).toNat ∧ (36 : BitVec 7).toNat ≤ 36 ∧ (72 : BitVec 7).toNat ≤ 72 ∧
    (126 : GrsAddr).toNat + 2 ≤ 128 := by decide

theorem witness_FieldExtractResult :
    (partialFields false)[(6 : BitVec 4).toNat]? = some (12, 12, true) ∧
    (partialFields true)[(15 : BitVec 4).toNat]? = some (0, 18, true) := by decide

/-- Both sides of j = 14. -/
theorem witness_FieldInsertResult :
    (partialFields true)[(13 : BitVec 4).toNat]? = some (30, 6, false) ∧ (13 : BitVec 4).toNat < 14 ∧
    (partialFields false)[(14 : BitVec 4).toNat]? = some (0, 18, false) ∧ 14 ≤ (14 : BitVec 4).toNat := by decide

theorem witness_PackResult :
    (124 : GrsAddr).toNat + min (127 : BitVec 7).toNat 4 ≤ 128 ∧
      (127 : GrsAddr).toNat + min (0 : BitVec 7).toNat 6 ≤ 128 ∧
    (122 : GrsAddr).toNat + min (6 : BitVec 7).toNat 6 ≤ 128 := by decide

theorem witness_UnpackResult : (124 : GrsAddr).toNat + 4 ≤ 128 ∧ (122 : GrsAddr).toNat + 6 ≤ 128 := by decide

/-- Strings without and with a character above 0o777; the boundary code 0o777 is allowed. -/
theorem witness_StringConversions :
    (∀ c ∈ ['\u01ff'], c.toNat ≤ 0o777) ∧ (∃ c ∈ ['Ω'], 0o777 < c.toNat) :=
  ⟨fun c h => by obtain rfl := List.mem_singleton.mp h; decide, 'Ω', List.mem_singleton.mpr rfl, by decide⟩

/-- Limits at the first and the last word of `B3std`, with the read and the write permission. -/
theorem witness_TranslateResult :
    let s := at3 2 0o1234 [(7, 512), (8, 3584), (9, 4095)]
    (selectedPerms (s.b 3) s.key).write = true ∧ (selectedPerms (s.b 3) s.key).read = true ∧
    inLimits (s.b 3) (s.x 7).toNat 1 ∧ inLimits (s.b 3) (s.x 9).toNat 1 ∧ s.x 8 ≠ 0 ∧
    inLimits (s.b 3) (s.x 7).toNat (s.x 8).toNat ∧ (126 : GrsAddr).toNat + 2 ≤ 128 ∧ (2 : BitVec 2) ≠ 3 :=
  ⟨rfl, rfl, ⟨rfl, by decide, by decide⟩, ⟨rfl, by decide, by decide⟩, by decide, ⟨rfl, by decide, by decide⟩, by decide,
    by decide⟩

/-- One word above the upper limit, one below the lower, the last word for two, a range one too long. -/
theorem witness_LimitsCheckedFirst :
    let s := at3 3 0o7777 [(5, 511), (6, 4096), (7, 4095), (8, 2)]
    ¬inLimits (s.b 3) (s.x 5).toNat 1 ∧ ¬inLimits (s.b 3) (s.x 6).toNat 1 ∧ ¬inLimits (s.b 3) (s.x 7).toNat 2 ∧
    ¬inLimits (s.b 3) (s.x 7).toNat (s.x 8).toNat ∧ s.x 8 ≠ 0 :=
  ⟨fun h => absurd h.2.1 (by decide), fun h => absurd h.2.2 (by decide), fun h => absurd h.2.2 (by decide),
    fun h => absurd h.2.2 (by decide), by decide⟩

/-- GAP (0, 1, 0) is selected by a key that is neither of a smaller ring nor of the domain; the read bit is missing on a
bank whose GAP is empty. -/
theorem witness_PermissionViolation :
    let s := at3 2 0o7777 [(7, 600), (8, 2)]
    let t := s.setB 4 { b3std with gap := ⟨true, false, true⟩ }
    (selectedPerms (s.b 3) s.key).write = false ∧ inLimits (s.b 3) (s.x 7).toNat 2 ∧ inLimits (s.b 3) (s.x 7).toNat 1 ∧
    s.x 8 ≠ 0 ∧ (selectedPerms (t.b 4) t.key).read = false ∧ inLimits (t.b 4) (t.x 7).toNat 2 :=
  ⟨rfl, ⟨rfl, by decide, by decide⟩, ⟨rfl, by decide, by decide⟩, by decide, rfl, ⟨rfl, by decide, by decide⟩⟩

theorem witness_LoadResult :
    let s := at3 2 0o7777 [(7, 512), (8, 4095)]
    (selectedPerms (s.b 3) s.key).read = true ∧ inLimits (s.b 3) (s.x 8).toNat 1 ∧ inLimits (s.b 3) (s.x 7).toNat 2 ∧
    allPresent s (addrPlus (s.b 3).base (s.x 7).toNat) 2 :=
  ⟨rfl, ⟨rfl, by decide, by decide⟩, ⟨rfl, by decide, by decide⟩, fun _ _ => rfl⟩

theorem witness_StoreResult :
    let s := at3 2 0o1234 [(7, 4094)]
    s.memInv = true ∧ (selectedPerms (s.b 3) s.key).write = true ∧ inLimits (s.b 3) (s.x 7).toNat 2 ∧
    inLimits (s.b 3) (s.x 7).toNat 1 ∧ allPresent s (addrPlus (s.b 3).base (s.x 7).toNat) 2 :=
  ⟨rfl, rfl, ⟨rfl, by decide, by decide⟩, ⟨rfl, by decide, by decide⟩, fun _ _ => rfl⟩

/-- Storage of the words at 0o1000 to 0o1006 of the null segment only, each bank based there or below it, so that the first
absent word is the second of a pair (n = 1), the last of a descriptor (n = 7) or the only one (n = 0). -/
def absentState : State :=
  let b : BaseReg := { b3std with base := ⟨0, 0, 0o1000⟩, lower := 0 }
  { (((((st [(1, 0o100000_000000), (7, 6), (8, 7),
      (96, 6)]).setB 3 b).setB 17 b).setB 25 b).setB 16 b).setKey 0o401234 with
    cfg := { resetConfig with storage := ⟨false, [⟨0, 0, 0o1000, some 0o1006⟩]⟩ } }

theorem witness_AbsentWordRefused :
    let s := absentState
    let b := s.b 3
    inLimits b 6 2 ∧ allPresent s (addrPlus b.base 6) 1 ∧ s.present (addrPlus (addrPlus b.base 6) 1) = false ∧
    inLimits b 7 1 ∧ allPresent s (addrPlus b.base 7) 0 ∧ s.present (addrPlus (addrPlus b.base 7) 0) = false ∧
    (selectedPerms b s.key).read = true ∧ (selectedPerms b s.key).write = true ∧
    inLimits (s.b 17) 0 8 ∧ allPresent s (addrPlus (s.b 17).base 0) 7 ∧
    s.present (addrPlus (addrPlus (s.b 17).base 0) 7) = false ∧
    inLimits (s.b 25) 6 2 ∧ inLimits (s.b 16) 7 1 ∧ (126 : GrsAddr).toNat + 2 ≤ 128 := by
  refine ⟨⟨rfl, by decide, by decide⟩, ?_, by decide, ⟨rfl, by decide, by decide⟩, fun i hi => absurd hi (by omega),
    by decide, rfl, rfl, ⟨rfl, by decide, by decide⟩, ?_, by decide, ⟨rfl, by decide, by decide⟩,
    ⟨rfl, by decide, by decide⟩, by decide⟩
  · intro i hi
    obtain rfl : i = 0 := by omega
    decide
  · unfold allPresent
    decide

/-- R61, R331: what absentState refuses, a push whose second word alone is absent among it. -/
theorem test_absent_words :
    refusal (exec (.rcswr 7) absentState) = some (.noStorage ⟨0, 0, 0o1007⟩) ∧
    refusal (exec (.rcspop 30) absentState) = some (.noStorage ⟨0, 0, 0o1007⟩) ∧
    refusal (exec (.basebd 1 6 3) absentState) = some (.noStorage ⟨0, 0, 0o1007⟩) ∧
    refusal (exec (.vecrd 9 7) absentState) = some (.noStorage ⟨0, 0, 0o1007⟩) ∧
    refusal (exec (.dst 7 7 3) absentState) = some (.noStorage ⟨0, 0, 0o1007⟩) := by decide

/-- A store by ST, and one by RCSWR. -/
theorem witness_StoresStayInLimits :
    words (exec (.st 7 8 3) (at3 3 0o1234 [(7, 600), (8, 0o123)])) [⟨1, 2, 0o2130⟩] = some [0o123] ∧
    (at3 3 0o1234 [(7, 600), (8, 0o123)]).mem.read ⟨1, 2, 0o2130⟩ = 0 ∧
    words (exec (.rcswr 20) (rcs 0 [(96, 0), (20, 3)])) [⟨0, 0, 0o10000⟩] = some [3] := by decide

theorem witness_BasePacketResult :
    (124 : GrsAddr).toNat + 4 ≤ 128 ∧ (State.reset.b 3).void = true ∧
      ((State.reset.setB 3 b3std).b 3).void = false := by
  decide

/-- `B3std` survives, a lower limit of 600 does not; the packet of T22 has no unused bit set. -/
theorem witness_PacketRoundTrip :
    brOK b3std = true ∧ b3std.lower % 512 = 0 ∧ b3std.lower / 512 < 2 ^ 9 ∧ b3std.upper < 2 ^ 27 ∧
    b3std.base.off < 2 ^ 36 ∧ ({ b3std with lower := 600 } : BaseReg).lower % 512 ≠ 0 ∧
    (0o270000_401234 : Word) &&& 0o007757_000000 = 0 ∧
    (decodePacket 0o270000_401234 0o001000_007777 0o000001_000002 0o1000).void = false := by decide

/-- The largest offset a Bank Descriptor word holds. -/
theorem witness_BankDescriptorRoundTrip :
    (⟨0, 0, 2 ^ 36 - 1⟩ : AbsAddr).off < 2 ^ 36 ∧
    encodeBD (decodeBD #v[0o270300_401234, 0o001000_007777, 0o000001_000002, 0o000000_001000, 0, 0, 0, 0]) =
      #v[0o270300_401234, 0o001000_007777, 0o000001_000002, 0o000000_001000, 0, 0, 0, 0] := by decide

/-- T31, and the last descriptor of the table (T38). -/
theorem witness_BaseBankResult :
    let s := tableState 0o270300_401234 []
    (0 < (1 : Nat) ∨ 32 ≤ (5 : Nat)) ∧ inLimits (s.b 17) (8 * 5) 8 ∧ inLimits (s.b 17) (8 * 63) 8 ∧
    allPresent s (addrPlus (s.b 17).base 40) 8 ∧ (s.readWord 0 (addrPlus (s.b 17).base 40)).getLsbD 23 = false :=
  ⟨Or.inl (by decide), ⟨rfl, by decide, by decide⟩, ⟨rfl, by decide, by decide⟩, fun _ _ => rfl, by decide⟩

/-- T32 and its neighbour BDI 32 of level 0, T37, T39. -/
theorem witness_BaseBankFaults :
    let s := tableState 0o270340_401234 []
    ((0 : BitVec 3) = 0 ∧ (31 : BitVec 15).toNat < 32) ∧ ¬((0 : BitVec 3) = 0 ∧ (32 : BitVec 15).toNat < 32) ∧
    ¬inLimits (s.b 17) (8 * 64) 8 ∧ inLimits (s.b 17) (8 * 5) 8 ∧
    (s.readWord 0 (addrPlus (s.b 17).base 40)).getLsbD 23 = true :=
  ⟨by decide, by decide, fun h => absurd h.2.2 (by decide), ⟨rfl, by decide, by decide⟩, by decide⟩

/-- T45's operands: the index register is stepped and is none of the pair. -/
theorem witness_EffectiveAddressResult :
    (126 : GrsAddr).toNat + 2 ≤ 128 ∧ (0o100022_650010 : Word).toNat / 2 ^ 18 % 2 ^ 4 ≠ 0 ∧
    (0o100022_650010 : Word).getLsbD 17 = true ∧ (98 : GrsAddr) ≠ 20 ∧ (98 : GrsAddr) ≠ grsPlus 20 1 := by decide

/-- A table with each kind of slot at each level. -/
theorem witness_DispatchResult :
    let t3 : Vector Slot3 16 := (Vector.replicate 16 .none).set 3 (.handler 9)
    let t2 : Vector Slot2 16 := ((Vector.replicate 16 .none).set 15 (.sub t3)).set 1 (.handler 8)
    let t1 : Vector Slot1 64 := ((Vector.replicate 64 .none).set 60 (.sub t2)).set 8 (.handler 7)
    (126 : GrsAddr).toNat + 2 ≤ 128 ∧ t1[8]? = some (.handler 7) ∧ t1[0]? = some .none ∧ t1[60]? = some (.sub t2) ∧
    t2[1]? = some (.handler 8) ∧ t2[0]? = some .none ∧ t2[15]? = some (.sub t3) ∧ t3[3]? = some (.handler 9) ∧
    t3[4]? = some .none := by
  exact ⟨by decide, rfl, rfl, rfl, rfl, rfl, rfl, rfl, rfl⟩

/-- The frame pointer at the lower limit plus 2, one below it, and a void register. -/
theorem witness_PushCheckResult :
    let s := rcs 0o100 [(96, 0o102)]
    (s.b 25).void = false ∧ (s.b 25).lower + 2 ≤ (s.x 96).toNat % 2 ^ 18 ∧
    (rcs 0o100 [(96, 0o101)]).dr.getLsbD 28 = false ∧ 0o101 < ((rcs 0o100 [(96, 0o101)]).b 25).lower + 2 ∧
    (State.reset.b 25).void = true := by decide

/-- The last frame within the limits, and one word further. -/
theorem witness_PushFrameResult :
    let s := rcs 0o100 [(96, 0o776)]
    s.memInv = true ∧ inLimits (s.b 25) 0o776 2 ∧ allPresent s (addrPlus (s.b 25).base 0o776) 2 ∧
    ¬inLimits (s.b 25) 0o777 2 ∧ (126 : GrsAddr).toNat + 2 ≤ 128 :=
  ⟨rfl, ⟨rfl, by decide, by decide⟩, fun _ _ => rfl, fun h => absurd h.2.2 (by decide), by decide⟩

/-- The last frame, the underflow one word further, and a frame one word below the lower limit. -/
theorem witness_PopResult :
    let s := rcs 0o100 []
    inLimits (s.b 25) 0o776 2 ∧ allPresent s (addrPlus (s.b 25).base 0o776) 2 ∧ (s.b 25).upper + 1 < 0o777 + 2 ∧
    (s.b 25).void = false ∧ 0o77 + 2 ≤ (s.b 25).upper + 1 ∧ 0o77 < (s.b 25).lower :=
  ⟨⟨rfl, by decide, by decide⟩, fun _ _ => rfl, by decide, rfl, by decide, by decide⟩

/-- The empty stack of P3, its frame pointer one past the upper limit. -/
theorem witness_PushPopRoundTrip :
    let s := rcs 0 [(96, 0o1000)]
    let a := addrPlus (s.b 25).base (0o1000 - 2)
    s.memInv = true ∧ (126 : GrsAddr).toNat + 2 ≤ 128 ∧ (10 : GrsAddr) ≠ 96 ∧ grsPlus 30 1 ≠ 96 ∧
    (s.b 25).void = false ∧ (s.b 25).lower + 2 ≤ 0o1000 ∧ 0o1000 ≤ (s.b 25).upper + 1 ∧ allPresent s a 2 ∧
    s.sharedWord a = false ∧ s.sharedWord (addrPlus a 1) = false :=
  ⟨rfl, by decide, by decide, by decide, rfl, by decide, by decide, fun _ _ => rfl, rfl, rfl⟩

/-- S16 and S17: the last entry within the limits and the next. -/
theorem witness_VectorReadResult :
    let s := (st []).setB 16 { rcsBr 0 with base := ⟨0, 0, 0o100⟩, upper := 0o17 }
    inLimits (s.b 16) 0o17 1 ∧ allPresent s (addrPlus (s.b 16).base 0o17) 1 ∧ ¬inLimits (s.b 16) 0o20 1 :=
  ⟨⟨rfl, by decide, by decide⟩, fun _ _ => rfl, fun h => absurd h.2.2 (by decide)⟩

/-- Two states that differ in unwritten registers only; legal commands with and without a reason to be refused, limits that
pass with KEY unwritten, an index register named and unwritten. -/
theorem witness_UnwrittenNeverShows :
    agreeOnWritten State.reset { State.reset with dr := 5, par := 6, key := 7 } ∧
    (Instr.xltn 1 7 8 3 1).wellFormed = true ∧ (Instr.dadd 127 0 0).wellFormed = false ∧
    (let s := (st [(7, 512), (8, 1)]).setB 3 b3std;
      inLimits (s.b 3) (s.x 7).toNat (s.x 8).toNat ∧ s.x 8 ≠ 0 ∧ s.written.key = false ∧ s.unwrittenX 7 = false ∧
        s.unwrittenX 9 = true) ∧
    (let s := (st [(7, 0o100002_400010)]).setDr 0o000001_000000;
      (s.x 7).toNat / 2 ^ 18 % 2 ^ 4 ≠ 0 ∧ s.unwrittenX 98 = true ∧ s.written.dr = true) ∧
    decode ([0o212001_700000].drop 0) = .ok (.wrpar 30) :=
  ⟨⟨rfl, rfl, rfl, rfl, rfl, rfl, rfl, rfl, fun _ _ => rfl, nofun, nofun, nofun⟩, by decide, by decide,
    ⟨⟨rfl, by decide, by decide⟩, by decide, rfl, by decide, by decide⟩, by decide, by decide⟩

end Sys2Proof.Tests
end

section
/-! What a command can do to the state, said once for the whole instruction set (10_state.md). -/

namespace Sys2Proof.Machine

/-- `t` is `s` but for the contents and the marks of the GRS and the model's draw counter. -/
def grsOnly (s t : State) : Prop :=
  ∃ g w n, t = { s with grs := g, written := { s.written with grs := w }, draws := n }

theorem grsOnly_refl (s : State) : grsOnly s s := ⟨_, _, _, rfl⟩

theorem grsOnly_drew (s : State) (n : Nat) : grsOnly s (s.drew n) := ⟨_, _, _, rfl⟩

theorem grsOnly_setX {s t : State} (h : grsOnly s t) (r : GrsAddr) (v : Word) : grsOnly s (t.setX r v) := by
  obtain ⟨g, w, n, rfl⟩ := h
  exact ⟨_, _, _, rfl⟩

theorem grsOnly_setPair {s t : State} (h : grsOnly s t) (r : GrsAddr) (d : DWord) : grsOnly s (t.setPair r d) :=
  grsOnly_setX (grsOnly_setX h _ _) _ _

theorem grsOnly_setFramePointer {s t : State} (h : grsOnly s t) (fp : Nat) : grsOnly s (t.setFramePointer fp) :=
  grsOnly_setX h _ _

theorem grsOnly_setGroup {s : State} (ws : List Word) :
    ∀ {t : State} (r : GrsAddr), grsOnly s t → grsOnly s (t.setGroup r ws) := by
  induction ws with
  | nil => exact fun _ h => h
  | cons w ws ih => exact fun r h => ih _ (grsOnly_setX h r w)

/-! The commands that write something else than the GRS -/

/-- The ten commands that write STAT.c, STAT.o and STAT.d (R35). -/
def WritesFlags (i : Instr) : Prop :=
  (∃ rd ra rb, i = .add rd ra rb ∨ i = .sub rd ra rb ∨ i = .dadd rd ra rb ∨ i = .dsub rd ra rb ∨
    i = .mul rd ra rb ∨ i = .muls rd ra rb ∨ i = .div rd ra rb ∨ i = .divs rd ra rb) ∨
  ∃ rd ra, i = .neg rd ra ∨ i = .dneg rd ra

/-- The commands that write DR (R28). -/
def WritesDr (i : Instr) : Prop := (∃ ra, i = .wrdr ra) ∨ i = .updf

/-- The commands that write base registers (R39). -/
def WritesBase (i : Instr) : Prop := (∃ ra k, i = .ldbr ra k) ∨ ∃ ra rb k, i = .basebd ra rb k

/-- The commands that write storage (R67). -/
def WritesStorage (i : Instr) : Prop :=
  (∃ ra rb k, i = .st ra rb k ∨ i = .dst ra rb k) ∨ (∃ ra, i = .rcswr ra) ∨ ∃ tag, i = .rcswrs tag

/-! Base registers as the commands build them (R38, R236) -/

/-- A base register is void exactly if its limits are inverted, and a void one is `CanonicalVoid`. -/
def BaseReg.Good (b : BaseReg) : Prop :=
  (b.void = true ↔ b.upper < b.lower) ∧ (b.void = true → b = BaseReg.canonicalVoid)

theorem canonicalVoid_good : BaseReg.canonicalVoid.Good := ⟨by decide, fun _ => rfl⟩

theorem good_of_not_void {b : BaseReg} (hv : b.void = false) (hl : ¬b.upper < b.lower) : b.Good := by
  simp [BaseReg.Good, hv, hl]

theorem baseFromBD_good (bd : BankDescriptor) (offset : Nat) : (baseFromBD bd offset).Good := by
  unfold baseFromBD
  dsimp only
  split
  · exact canonicalVoid_good
  · next h => exact good_of_not_void rfl (not_or.1 h).2

theorem decodePacket_good (p0 p1 p2 p3 : Word) : (decodePacket p0 p1 p2 p3).Good := by
  unfold decodePacket
  dsimp only
  split
  · exact canonicalVoid_good
  · next h => exact good_of_not_void rfl (not_or.1 h).2

/-! EA's two writes -/

/-- The state after EA's h-increment, before the pair is written (R264). -/
def State.indexStepped (s : State) (f : FormedRel) : State :=
  match f.index, f.incr with
  | some xa, true => s.setX xa (xIncrement (s.x xa) f.lay)
  | some _, false => s
  | none, _ => s

theorem execEa_eq (rd ra : GrsAddr) (s : State) :
    execEa rd ra s =
      if groupOK rd 2 then
        done (((s.indexStepped (formRel s (s.x ra))).setPair rd
          (dw (formRel s (s.x ra)).rel (formRel s (s.x ra)).base)).setUnresolved (formRel s (s.x ra)).unresolved)
      else badCommand s := by
  have h : ∀ f : FormedRel, s.indexStepped f = match f.index with
      | some xa => if f.incr then s.setX xa (xIncrement (s.x xa) f.lay) else s
      | none => s := by
    rintro ⟨_, _, _ | _, _, _ | _, _⟩ <;> rfl
  rw [h]
  rfl

/-! The outcome of a command -/

/-- What a command can end in: a next state that differs from `s` in the GRS, and in one thing more only for the commands
the rules name; a fault; or the refusal of an absent storage word. -/
inductive Ends (i : Instr) (s : State) : Result → Prop
  | grs {t : State} (h : grsOnly s t) : Ends i s (.next t)
  | flags {t : State} {c o d : Bool} (hi : WritesFlags i) (h : grsOnly s t) : Ends i s (.next (t.setFlags c o d))
  | unresolved {t : State} {u : Bool} (hi : ∃ rd ra, i = .ea rd ra) (h : grsOnly s t) :
      Ends i s (.next (t.setUnresolved u))
  | dr {v : Word} (hi : WritesDr i) : Ends i s (.next (s.setDr v))
  | par {v : Word} (hi : ∃ ra, i = .wrpar ra) : Ends i s (.next (s.setPar v))
  | key {v : BitVec 18} (hi : ∃ ra, i = .wrkey ra) : Ends i s (.next (s.setKey v))
  | base {k : BrNum} {b : BaseReg} {n : Nat} (hi : WritesBase i) (hb : b.Good) :
      Ends i s (.next ((s.drew n).setB k b))
  | storage {m : Memory} (hi : WritesStorage i) : Ends i s (.next { s with mem := m })
  | fault (f : Fault) : Ends i s (.fault f)
  | absent (a : AbsAddr) : Ends i s (.refused (.noStorage a))

section Shapes

variable {i : Instr} {s : State}

theorem ends_badCommand : Ends i s (badCommand s) := .fault _

theorem ends_setX (r : GrsAddr) (v : Word) : Ends i s (done (s.setX r v)) := .grs (grsOnly_setX (grsOnly_refl s) r v)

theorem ends_setPair (r : GrsAddr) (d : DWord) : Ends i s (done (s.setPair r d)) :=
  .grs (grsOnly_setPair (grsOnly_refl s) r d)

theorem ends_setGroup (r : GrsAddr) (ws : List Word) : Ends i s (done (s.setGroup r ws)) :=
  .grs (grsOnly_setGroup ws r (grsOnly_refl s))

/-- A command that checks its operands first ends in `BadCommand` or as it ends after the check. -/
theorem ends_checked (c : Prop) [Decidable c] {r : Result} (h : Ends i s r) :
    Ends i s (if c then r else badCommand s) := by
  split
  · exact h
  · exact ends_badCommand

theorem ends_addInto (hi : WritesFlags i) (rd : GrsAddr) (a b : Word) : Ends i s (addInto rd a b s) :=
  .flags hi (grsOnly_setX (grsOnly_refl s) _ _)

theorem ends_daddInto (hi : WritesFlags i) (rd : GrsAddr) (a b : DWord) : Ends i s (daddInto rd a b s) :=
  .flags hi (grsOnly_setPair (grsOnly_refl s) _ _)

theorem ends_divInto (hi : WritesFlags i) (rd : GrsAddr) (out : Option DivOut) : Ends i s (divInto rd out s) := by
  cases out with
  | none => exact .fault _
  | some o => exact .flags hi (grsOnly_setX (grsOnly_setX (grsOnly_refl s) _ _) _ _)

theorem ends_bitwise72 (f : DWord → DWord → DWord) (rd ra rb : GrsAddr) : Ends i s (bitwise72 f rd ra rb s) :=
  ends_checked _ (ends_setPair _ _)

theorem ends_shift72 (f : DWord → Int → DWord) (rd ra rb : GrsAddr) : Ends i s (shift72 f rd ra rb s) :=
  ends_checked _ (ends_setPair _ _)

theorem memRead_error {a : AbsAddr} {n : Nat} {r : Refusal} (h : memRead s a n = .error r) : ∃ b, r = .noStorage b := by
  unfold memRead at h
  split at h
  · exact ⟨_, (Except.error.inj h).symm⟩
  · simp at h

theorem memWrite_error {a : AbsAddr} {ws : List Word} {r : Refusal} (h : memWrite s a ws = .error r) :
    ∃ b, r = .noStorage b := by
  unfold memWrite at h
  split at h
  · exact ⟨_, (Except.error.inj h).symm⟩
  · simp at h

theorem ends_refuse {r : Refusal} (h : ∃ b, r = .noStorage b) : Ends i s (refuse r) := by
  obtain ⟨b, rfl⟩ := h
  exact .absent b

theorem ends_translateInto (rd : GrsAddr) (k : BrNum) (rel n : Nat) (intent : Intent) :
    Ends i s (translateInto rd k rel n intent s) := by
  unfold translateInto
  split
  · exact .fault _
  · exact ends_setPair _ _

theorem ends_storeAt (hi : WritesStorage i) (k : BrNum) (rel : Nat) (ws : List Word) :
    Ends i s (storeAt k rel ws s) := by
  unfold storeAt
  split
  · exact .fault _
  · split
    · next h => exact ends_refuse (memWrite_error h)
    · next h =>
      obtain ⟨-, rfl⟩ := memWrite_ok h
      exact .storage hi

theorem ends_pushFrame (hi : WritesStorage i) (f0 f1 : Word) : Ends i s (pushFrame f0 f1 s) := by
  unfold pushFrame
  dsimp only
  split
  · exact .fault _
  · split
    · next h => exact ends_refuse (memWrite_error h)
    · next h =>
      obtain ⟨-, rfl⟩ := memWrite_ok h
      exact .storage hi

theorem ends_fldi (rd ra rb : GrsAddr) (j : BitVec 4) (qw : Bool) : Ends i s (execFldi rd ra rb j qw s) := by
  unfold execFldi
  split
  · exact ends_setX _ _
  · exact ends_badCommand

theorem ends_grsa (rd : GrsAddr) (kind : BitVec 2) (n : BitVec 4) : Ends i s (execGrsa rd kind n s) := by
  unfold execGrsa
  split
  · exact ends_setX _ _
  · exact ends_badCommand

theorem ends_xlt (rd ra : GrsAddr) (k : BrNum) (intent : BitVec 2) : Ends i s (execXlt rd ra k intent s) := by
  unfold execXlt
  split
  · exact ends_badCommand
  · exact ends_checked _ (ends_translateInto _ _ _ _ _)

theorem ends_xltn (rd ra rb : GrsAddr) (k : BrNum) (intent : BitVec 2) :
    Ends i s (execXltn rd ra rb k intent s) := by
  unfold execXltn
  split
  · exact ends_badCommand
  · exact ends_checked _ (ends_translateInto _ _ _ _ _)

theorem ends_ld (rd ra : GrsAddr) (k : BrNum) : Ends i s (execLd rd ra k s) := by
  unfold execLd
  split
  · exact .fault _
  · split
    · next h => exact ends_refuse (memRead_error h)
    · exact .grs (grsOnly_setX (grsOnly_drew s 1) _ _)

theorem ends_dld (rd ra : GrsAddr) (k : BrNum) : Ends i s (execDld rd ra k s) := by
  refine ends_checked _ ?_
  split
  · exact .fault _
  · split
    · next h => exact ends_refuse (memRead_error h)
    · exact .grs (grsOnly_setPair (grsOnly_drew s 2) _ _)

theorem ends_ldbr (ra : GrsAddr) (k : BrNum) : Ends (.ldbr ra k) s (execLdbr ra k s) :=
  ends_checked _ (.base (n := 0) (by simp [WritesBase]) (decodePacket_good _ _ _ _))

theorem ends_basebd (ra rb : GrsAddr) (k : BrNum) : Ends (.basebd ra rb k) s (execBasebd ra rb k s) := by
  unfold execBasebd
  dsimp only
  split
  · exact .fault _
  · split
    · exact .fault _
    · split
      · next h => exact ends_refuse (memRead_error h)
      · split
        · exact .fault _
        · exact .base (by simp [WritesBase]) (baseFromBD_good _ _)

theorem grsOnly_indexStepped (f : FormedRel) : grsOnly s (s.indexStepped f) := by
  unfold State.indexStepped
  split
  · exact grsOnly_setX (grsOnly_refl s) _ _
  · exact grsOnly_refl s
  · exact grsOnly_refl s

theorem ends_ea (rd ra : GrsAddr) : Ends (.ea rd ra) s (execEa rd ra s) := by
  rw [execEa_eq]
  exact ends_checked _ (.unresolved ⟨rd, ra, rfl⟩ (grsOnly_setPair (grsOnly_indexStepped _) _ _))

theorem ends_disp (rd ra : GrsAddr) : Ends i s (execDisp rd ra s) := by
  refine ends_checked _ ?_
  split
  · exact .fault _
  · exact ends_setPair _ _

theorem ends_rcschk (rd : GrsAddr) : Ends i s (execRcschk rd s) := by
  unfold execRcschk
  split
  · exact .fault _
  · exact .grs (grsOnly_setX (grsOnly_setFramePointer (grsOnly_refl s) _) _ _)

theorem ends_rcspop (rd : GrsAddr) : Ends i s (execRcspop rd s) := by
  refine ends_checked _ ?_
  split
  · exact .fault _
  · split
    · next h => exact ends_refuse (memRead_error h)
    · exact .grs (grsOnly_setPair (grsOnly_setFramePointer (grsOnly_drew s 2) _) _ _)

theorem ends_vecrd (rd : GrsAddr) (c : BitVec 6) : Ends i s (execVecrd rd c s) := by
  unfold execVecrd
  split
  · exact .fault _
  · split
    · next h => exact ends_refuse (memRead_error h)
    · exact .grs (grsOnly_setX (grsOnly_drew s 1) _ _)

end Shapes

/-- What each of the 67 commands can end in. -/
theorem exec_ends (i : Instr) (s : State) : Ends i s (exec i s) := by
  cases i with
  | add | sub => exact ends_addInto (by simp [WritesFlags]) _ _ _
  | neg | muls => exact .flags (by simp [WritesFlags]) (grsOnly_setX (grsOnly_refl s) _ _)
  | dadd | dsub => exact ends_checked _ (ends_daddInto (by simp [WritesFlags]) _ _ _)
  | dneg | mul => exact ends_checked _ (.flags (by simp [WritesFlags]) (grsOnly_setPair (grsOnly_refl s) _ _))
  | div | divs => exact ends_checked _ (ends_divInto (by simp [WritesFlags]) _ _)
  | cmp | and | or | xor | lsc | rsc | lsl | rsl | lsa | rsa | fldx | mov | ldi | rddr | rdpar | rdkey | rdstat | xinc
  | xdec => exact ends_setX _ _
  | dcmp | exts | packa | packf => exact ends_checked _ (ends_setX _ _)
  | dand | dor | dxor => exact ends_bitwise72 _ _ _ _
  | dlsc | drsc | dlsl | drsl | dlsa | drsa => exact ends_shift72 _ _ _ _
  | dexts => exact ends_checked _ (ends_setPair _ _)
  | unpka | unpkf | stbr => exact ends_checked _ (ends_setGroup _ _)
  | fldi => exact ends_fldi _ _ _ _ _
  | grsa => exact ends_grsa _ _ _
  | wrdr ra => exact .dr (.inl ⟨ra, rfl⟩)
  | updf => exact .dr (.inr rfl)
  | wrpar ra => exact .par ⟨ra, rfl⟩
  | wrkey ra => exact .key ⟨ra, rfl⟩
  | xlt => exact ends_xlt _ _ _ _
  | xltn => exact ends_xltn _ _ _ _ _
  | ld => exact ends_ld _ _ _
  | st => exact ends_storeAt (by simp [WritesStorage]) _ _ _
  | dld => exact ends_dld _ _ _
  | dst => exact ends_checked _ (ends_storeAt (by simp [WritesStorage]) _ _ _)
  | ldbr => exact ends_ldbr _ _
  | basebd => exact ends_basebd _ _ _
  | ea => exact ends_ea _ _
  | disp => exact ends_disp _ _
  | rcschk => exact ends_rcschk _
  | rcswr => exact ends_checked _ (ends_pushFrame (by simp [WritesStorage]) _ _)
  | rcswrs => exact ends_pushFrame (by simp [WritesStorage]) _ _
  | rcspop => exact ends_rcspop _
  | vecrd => exact ends_vecrd _ _

end Sys2Proof.Machine
end

section
/-! The rules on the machine as a whole: what a step keeps and who writes what (10_state.md). -/

namespace Sys2Proof.Machine

/-! The length of a decoded command -/

/-- What the decoder answers for a command word: a command whose length the operation code tells, or one of two errors. -/
theorem decodeOp_cases (op : BitVec 8) (cw : Word) (rest : List Word) :
    (∃ i, decodeOp op cw rest = .ok i ∧ i.length = if op.toNat = 0x41 then 2 else 1) ∨
      decodeOp op cw rest = .error (.undefinedOp op) ∨ decodeOp op cw rest = .error .literalMissing := by
  unfold decodeOp
  split
  case h_40 hop =>
    cases rest with
    | nil => exact .inr (.inr rfl)
    | cons lit _ => exact .inl ⟨_, rfl, by rw [hop]; rfl⟩
  case h_68 => exact .inr (.inl rfl)
  all_goals
    next hop => exact .inl ⟨_, rfl, by rw [hop]; rfl⟩

theorem fOP_toNat (cw : Word) : (fOP cw).toNat = cw.toNat / 2 ^ 28 := by
  have := cw.isLt
  rw [fOP, extract_toNat]
  omega

theorem pending_of_getElem? {s : State} {cw : Word} (h : s.cmds[s.cp]? = some cw) :
    ∃ rest, s.pending = cw :: rest := by
  rw [← List.head?_drop] at h
  exact List.head?_eq_some_iff.1 h

/-- The length of a command is told by the operation code of its first word (R80, R82). -/
theorem length_of_decode {s : State} {i : Instr} {cw : Word} (h : decode s.pending = .ok i)
    (hcw : s.cmds[s.cp]? = some cw) : i.length = if cw.toNat / 2 ^ 28 = 0x41 then 2 else 1 := by
  obtain ⟨rest, hp⟩ := pending_of_getElem? hcw
  rw [hp, decode_cons] at h
  rw [← fOP_toNat]
  rcases decodeOp_cases (fOP cw) cw rest with ⟨j, hj, hlen⟩ | he | he
  · rw [← hlen, Except.ok.inj (h.symm.trans hj)]
  · cases h.symm.trans he
  · cases h.symm.trans he

/-- Where a word stands at the position, the decoder does not answer that there is none. -/
theorem decode_ne_noCommand {s : State} {cw : Word} (hcw : s.cmds[s.cp]? = some cw) :
    decode s.pending ≠ .error .noCommand := by
  obtain ⟨rest, hp⟩ := pending_of_getElem? hcw
  rw [hp, decode_cons]
  rcases decodeOp_cases (fOP cw) cw rest with ⟨j, hj, -⟩ | he | he
  · rw [hj]; nofun
  · rw [he]; nofun
  · rw [he]; nofun

theorem b_of_br {s t : State} (h : t.br = s.br) (k : BrNum) : t.b k = s.b k := by
  simp only [State.b, h]

/-! What follows from the ways a command ends -/

section Done

variable {i : Instr} {s t : State}

/-- No command moves the command port or sets a parameter. -/
theorem Ends.next_samePorts (h : Ends i s (.next t)) : samePorts s t := by
  cases h with
  | grs h | flags _ h | unresolved _ h =>
    obtain ⟨_, _, _, rfl⟩ := h
    exact ⟨rfl, rfl, rfl⟩
  | dr | par | key | base | storage => exact ⟨rfl, rfl, rfl⟩

theorem Ends.next_dr (h : Ends i s (.next t)) : t.dr = s.dr ∨ WritesDr i := by
  cases h with
  | grs h | flags _ h | unresolved _ h =>
    obtain ⟨_, _, _, rfl⟩ := h
    exact .inl rfl
  | dr hi => exact .inr hi
  | par | key | base | storage => exact .inl rfl

theorem Ends.next_par (h : Ends i s (.next t)) : t.par = s.par ∨ ∃ ra, i = .wrpar ra := by
  cases h with
  | grs h | flags _ h | unresolved _ h =>
    obtain ⟨_, _, _, rfl⟩ := h
    exact .inl rfl
  | par hi => exact .inr hi
  | dr | key | base | storage => exact .inl rfl

theorem Ends.next_key (h : Ends i s (.next t)) : t.key = s.key ∨ ∃ ra, i = .wrkey ra := by
  cases h with
  | grs h | flags _ h | unresolved _ h =>
    obtain ⟨_, _, _, rfl⟩ := h
    exact .inl rfl
  | key hi => exact .inr hi
  | dr | par | base | storage => exact .inl rfl

theorem Ends.next_mem (h : Ends i s (.next t)) : t.mem = s.mem ∨ WritesStorage i := by
  cases h with
  | grs h | flags _ h | unresolved _ h =>
    obtain ⟨_, _, _, rfl⟩ := h
    exact .inl rfl
  | storage hi => exact .inr hi
  | dr | par | key | base => exact .inl rfl

/-- The base registers stay, or one of them is replaced by one that is built as R38 and R236 ask. -/
theorem Ends.next_br (h : Ends i s (.next t)) :
    t.br = s.br ∨ WritesBase i ∧ ∃ k b, b.Good ∧ t.br = (s.setB k b).br := by
  cases h with
  | grs h | flags _ h | unresolved _ h =>
    obtain ⟨_, _, _, rfl⟩ := h
    exact .inl rfl
  | @base k b n hi hb => exact .inr ⟨hi, k, b, hb, rfl⟩
  | dr | par | key | storage => exact .inl rfl

theorem Ends.next_stat (h : Ends i s (.next t)) :
    t.stat = s.stat ∨ (t.stat.u = s.stat.u ∧ WritesFlags i) ∨
      (t.stat.c = s.stat.c ∧ t.stat.o = s.stat.o ∧ t.stat.d = s.stat.d ∧ ∃ rd ra, i = .ea rd ra) := by
  cases h with
  | grs h =>
    obtain ⟨_, _, _, rfl⟩ := h
    exact .inl rfl
  | flags hi h =>
    obtain ⟨_, _, _, rfl⟩ := h
    exact .inr (.inl ⟨rfl, hi⟩)
  | unresolved hi h =>
    obtain ⟨_, _, _, rfl⟩ := h
    exact .inr (.inr ⟨rfl, rfl, rfl, hi⟩)
  | dr | par | key | base | storage => exact .inl rfl

/-- A base register after a command is the one before it, or is as R38 and R236 say. -/
theorem Ends.next_b (h : Ends i s (.next t)) (k : BrNum) : t.b k = s.b k ∨ (t.b k).Good := by
  rcases h.next_br with e | ⟨-, q, b, hb, e⟩
  · exact .inl (b_of_br e k)
  · rw [b_of_br e k]
    by_cases hk : k = q
    · subst hk
      exact .inr (by rwa [b_setB_self])
    · exact .inl (b_setB_ne s q k b hk)

end Done

theorem ends_of_exec_next {i : Instr} {s t : State} (h : exec i s = .next t) : Ends i s (.next t) := h ▸ exec_ends i s

theorem step_b {s t : State} (h : step s = .next t) (k : BrNum) : t.b k = s.b k ∨ (t.b k).Good := by
  rcases step_next h with ⟨-, rfl⟩ | ⟨i, u, -, hu, rfl⟩
  · exact .inl rfl
  · exact (ends_of_exec_next hu).next_b k

/-- Settles O11: a base register is kept by a step or built anew by LDBR or BASEBD. -/
theorem stepKeepsBaseRegisters : Obligations.StepKeepsBaseRegisters := by
  intro s t h
  refine ⟨fun hs k => ?_, fun k hk => (step_b h k).resolve_left hk⟩
  rcases step_b h k with e | hk
  · rw [e]
    exact hs k
  · exact hk

/-- Settles O9, from the length of the decoded command and the ports every command keeps. -/
theorem stepAdvancesPosition : Obligations.StepAdvancesPosition := by
  intro s t h
  rcases step_next h with ⟨hd, rfl⟩ | ⟨i, u, hd, hu, rfl⟩
  · refine ⟨rfl, rfl, fun cw hcw => ?_, fun _ => rfl⟩
    exact absurd hd (decode_ne_noCommand hcw)
  · obtain ⟨hcfg, hcmds, hcp⟩ := (ends_of_exec_next hu).next_samePorts
    refine ⟨hcmds, hcfg, fun cw hcw => ?_, fun hlen => ?_⟩
    · rw [advance_cp, hcp, length_of_decode hd hcw]
    · rw [State.pending, List.drop_eq_nil_of_le hlen] at hd
      cases hd

/-- Settles O14, a frame for each of the five parts of the state. -/
theorem stateWriters : Obligations.StateWriters := by
  intro i s t h
  have he := ends_of_exec_next h
  exact ⟨he.next_dr, he.next_par, he.next_key, he.next_br.imp_right And.left, he.next_mem⟩

/-- Settles O15. -/
theorem statusWriters : Obligations.StatusWriters := fun _ _ _ h => (ends_of_exec_next h).next_stat

theorem step_of_decode {s : State} {i : Instr} (h : decode (s.cmds.drop s.cp) = .ok i) :
    step s = advanceAfter i.length (exec i s) := by
  rw [step, stepOn, State.pending, h]

/-- Settles O8, by the three outcomes of the decoded command. -/
theorem stepRunsDecoded : Obligations.StepRunsDecoded := by
  intro s i hd
  refine ⟨fun t h => ?_, fun f h => ?_, fun r h => ?_⟩ <;> rw [step_of_decode hd, h] <;> rfl

/-! Reset -/

theorem reset_b (k : BrNum) : State.reset.b k = BaseReg.canonicalVoid := by
  simp [State.b, State.reset]

/-- Settles O12: every base register is `CanonicalVoid` and storage is empty. -/
theorem resetMeetsInvariants : Obligations.ResetMeetsInvariants := by
  refine ⟨reset_mem_wf, by decide, fun k => ?_⟩
  rw [reset_b]
  exact canonicalVoid_good

/-- Settles O13, by the fields of `State.reset`. -/
theorem resetValues : Obligations.ResetValues := by
  refine ⟨rfl, rfl, reset_b, fun r => ?_, rfl, rfl, rfl⟩
  simp [unwrittenX_eq, State.reset]

/-! Register names -/

theorem regAddr_toNat (c : RegClass) (n : BitVec 4) : (regAddr c n).toNat = (regBase c).toNat + n.toNat := by
  cases c <;> simp [regAddr, regBase] <;> omega

/-- Two names of one address reach one location. -/
theorem x_setX_of_eq (s : State) (v : Word) {r q : GrsAddr} (h : q = r) : (s.setX r v).x q = v := by
  rw [h, x_setX_self]

/-- Settles O16: the paired names have one address. -/
theorem registerAliases : Obligations.RegisterAliases := by
  refine ⟨fun n => ?_, fun s v n hn => ?_⟩
  · simp [regAddr_toNat, regBase]
  · have hx : regAddr .x (BitVec.ofNat 4 (12 + n)) = regAddr .a (BitVec.ofNat 4 n) := by
      revert n
      decide
    have he : regAddr .ex (BitVec.ofNat 4 (12 + n)) = regAddr .ea (BitVec.ofNat 4 n) := by
      revert n
      decide
    exact ⟨x_setX_of_eq s v hx.symm, x_setX_of_eq s v hx, x_setX_of_eq s v he.symm, x_setX_of_eq s v he⟩

end Sys2Proof.Machine
end

section
/-! Index registers, designators and effective addresses (R41 of 10_state.md, R263, R264, R310 to R312). -/

namespace Sys2Proof.Machine

/-! Fields as numbers -/

theorem zfield_toNat (v : Word) (len : Nat) (h : len ≤ 36) : (zfield v 0 len).toNat = v.toNat % 2 ^ len := by
  rw [zfield, BitVec.toNat_setWidth, extract_toNat, Nat.pow_zero, Nat.div_one]
  exact Nat.mod_eq_of_lt (Nat.lt_of_lt_of_le (Nat.mod_lt _ (Nat.two_pow_pos _)) (Nat.pow_le_pow_right (by omega) h))

theorem zfield_eq_place (v : Word) (len : Nat) : zfield v 0 len = place 36 (v.extractLsb' 0 len) 0 := by
  simp [zfield, place]

theorem place_toNat {n w : Nat} (v : BitVec n) (p : Nat) (h : p + n ≤ w) :
    (place w v p).toNat = v.toNat * 2 ^ p := by
  have hv : v.toNat * 2 ^ p < 2 ^ w :=
    calc v.toNat * 2 ^ p < 2 ^ n * 2 ^ p := Nat.mul_lt_mul_of_pos_right v.isLt (Nat.two_pow_pos p)
      _ = 2 ^ (p + n) := by rw [Nat.add_comm, Nat.pow_add]
      _ ≤ 2 ^ w := Nat.pow_le_pow_right (by omega) h
  have hw : v.toNat < 2 ^ w := Nat.lt_of_le_of_lt (Nat.le_mul_of_pos_right _ (Nat.two_pow_pos p)) hv
  rw [place, BitVec.toNat_shiftLeft, BitVec.toNat_setWidth, Nat.mod_eq_of_lt hw, Nat.shiftLeft_eq, Nat.mod_eq_of_lt hv]

/-- A field placed above another, as a number. -/
theorem place_or_toNat {m n w : Nat} (a : BitVec m) (b : BitVec n) (h : n + m ≤ w) :
    (place w a n ||| place w b 0).toNat = a.toNat * 2 ^ n + b.toNat := by
  rw [BitVec.toNat_or, place_toNat a n h, place_toNat b 0 (by omega), Nat.pow_zero, Nat.mul_one, Nat.mul_comm,
    Nat.two_pow_add_eq_or_of_lt b.isLt]

/-! Index registers (R41) -/

/-- Replacing XM leaves XI. -/
theorem withXM_xi (v : Word) (lay : XLayout) (m : Word) :
    (withXM v lay m).extractLsb' (xmWidth lay) (xiWidth lay) = v.extractLsb' (xmWidth lay) (xiWidth lay) := by
  rw [withXM, truncTo, zfield_eq_place, extract_or, extract_place_self _ _ (by cases lay <;> decide),
    extract_place_below _ _ _ _ (by omega)]
  simp

/-- Replacing XM puts the low bits of the new modifier there. -/
theorem withXM_xm (v : Word) (lay : XLayout) (m : Word) :
    (withXM v lay m).extractLsb' 0 (xmWidth lay) = m.extractLsb' 0 (xmWidth lay) := by
  rw [withXM, truncTo, zfield_eq_place, extract_or, extract_place_above _ _ _ _ (by omega),
    extract_place_self _ _ (by cases lay <;> decide)]
  simp

/-- A command that replaces the XM of a register by the low bits of `m`. -/
theorem completes_withXM {i : Instr} {s : State} {rd : GrsAddr} {lay : XLayout} {m : Word}
    (h : exec i s = .next (s.setX rd (withXM (s.x rd) lay m))) :
    ∃ w, completesTo i s [(rd, w)] s.stat ∧
      w.extractLsb' (xmWidth lay) (xiWidth lay) = (s.x rd).extractLsb' (xmWidth lay) (xiWidth lay) ∧
      w.extractLsb' 0 (xmWidth lay) = m.extractLsb' 0 (xmWidth lay) :=
  ⟨_, completesTo_setX h, withXM_xi _ _ _, withXM_xm _ _ _⟩

/-- Settles O38: XINC and XDEC replace XM by the low bits of the sum or difference, in either layout. -/
theorem indexStepResult : Obligations.IndexStepResult := by
  intro s rd
  exact ⟨completes_withXM (lay := .std) rfl, completes_withXM (lay := .std) rfl,
    completes_withXM (lay := .exec24) rfl, completes_withXM (lay := .exec24) rfl⟩

/-! Designators (R312) -/

theorem regAddr_eq_ofNat (c : RegClass) (n : BitVec 4) : regAddr c n = BitVec.ofNat 7 ((regBase c).toNat + n.toNat) := by
  rw [← regAddr_toNat, BitVec.ofNat_toNat, BitVec.setWidth_eq]

theorem regAddr_setWidth (c : RegClass) (n : BitVec 4) :
    (regAddr c n).setWidth 36 = BitVec.ofNat 36 ((regBase c).toNat + n.toNat) := by
  rw [← regAddr_toNat, BitVec.ofNat_toNat]

/-- The base address of a designator, by the register set. -/
theorem regBase_ite_toNat (e : Bool) (c d : RegClass) :
    (regBase (if e then c else d)).toNat = if e then (regBase c).toNat else (regBase d).toNat := by
  cases e <;> rfl

/-- A legal GRSA delivers the address of the register it names. -/
theorem completes_grsa {s : State} {kind : BitVec 2} {n : BitVec 4} {c : RegClass} (rd : GrsAddr)
    (h : resolveDesignator kind s.execSet n = some (regAddr c n)) :
    completesTo (.grsa rd kind n) s [(rd, BitVec.ofNat 36 ((regBase c).toNat + n.toNat))] s.stat := by
  rw [← regAddr_setWidth]
  refine completesTo_setX ?_
  change execGrsa rd kind n s = _
  rw [execGrsa, h]
  rfl

/-- Settles O39: each kind names a class by the register set of DR. -/
theorem designatorResult : Obligations.DesignatorResult := by
  intro s rd n
  have hA := completes_grsa (kind := 0) (n := n) (c := if s.execSet then .ea else .a) (s := s) rd rfl
  have hX := completes_grsa (kind := 1) (n := n) (c := if s.execSet then .ex else .x) (s := s) rd rfl
  have hR := completes_grsa (kind := 2) (n := n) (c := if s.execSet then .er else .r) (s := s) rd rfl
  rw [regBase_ite_toNat] at hA hX hR
  exact ⟨hA, hX, hR, rfl⟩

/-! The parts of a formed address (R262, R263) -/

theorem iwX_toNat (iw : Word) : (iwX iw).toNat = iw.toNat / 2 ^ 18 % 2 ^ 4 := extract_toNat iw 18 4

/-- The index register by the numbers of the instruction word; x = 0 names none. -/
theorem formIndex_eq (s : State) (iw : Word) :
    formIndex s iw = if iw.toNat / 2 ^ 18 % 2 ^ 4 = 0 then none
      else some (BitVec.ofNat 7 ((if s.dr.getLsbD 18 then 96 else 0) + iw.toNat / 2 ^ 18 % 2 ^ 4)) := by
  have h0 : iwX iw = 0 ↔ iw.toNat / 2 ^ 18 % 2 ^ 4 = 0 := by
    rw [← iwX_toNat, ← BitVec.toNat_inj]
    rfl
  have hx : designatorX s.execSet (iwX iw) =
      BitVec.ofNat 7 ((if s.dr.getLsbD 18 then 96 else 0) + iw.toNat / 2 ^ 18 % 2 ^ 4) := by
    rw [designatorX, regAddr_eq_ofNat, regBase_ite_toNat, iwX_toNat]
    rfl
  rw [formIndex, hx]
  simp only [h0]

theorem formDisp_eq (s : State) (iw : Word) :
    formDisp s iw = BitVec.ofNat 36 (if s.basic then iw.toNat % 2 ^ 16 else iw.toNat % 2 ^ 12) := by
  apply BitVec.eq_of_toNat_eq
  have hiw := iw.isLt
  rw [formDisp, BitVec.toNat_ofNat]
  split
  · rw [iwU, zfield_toNat _ _ (by omega)]
    omega
  · rw [iwD, zfield_toNat _ _ (by omega)]
    omega

theorem formBase_toNat (s : State) (iw : Word) :
    (formBase s iw).toNat = if s.basic then 0 else iw.toNat / 2 ^ 12 % 2 ^ 4 + 16 * (iw.getLsbD 16).toNat := by
  unfold formBase
  split
  · rfl
  · rw [place_or_toNat _ _ (by omega), iwB, iwI, extract_toNat, BitVec.toNat_ofBool]
    omega

theorem truncTo_toNat (v : Word) (lay : XLayout) : (truncTo (xmWidth lay) v).toNat = v.toNat % 2 ^ xmWidth lay :=
  zfield_toNat v _ (by cases lay <;> decide)

/-- The modifier at the width of the layout that address formation uses. -/
theorem xmSigned_ite (v : Word) (c : Bool) :
    xmSigned v (if c then .exec24 else .std) =
      if c then (v.extractLsb' 0 24).signExtend 36 else (v.extractLsb' 0 18).signExtend 36 := by
  cases c <;> rfl

/-- The relative address is the low part of the displacement, or of its sum with the signed modifier. -/
theorem formRelWord_toNat_of_none {s : State} {iw : Word} (h : formIndex s iw = none) :
    (formRelWord s iw).toNat = (formDisp s iw).toNat % 2 ^ xmWidth (formLayout s) := by
  rw [formRelWord, h, truncTo_toNat]

theorem formRelWord_toNat_of_some {s : State} {iw : Word} {xa : GrsAddr} (h : formIndex s iw = some xa) :
    (formRelWord s iw).toNat =
      (addN (formDisp s iw) (xmSigned (s.x xa) (formLayout s))).toNat % 2 ^ xmWidth (formLayout s) := by
  rw [formRelWord, h, truncTo_toNat]

/-! The frame of EA -/

theorem framed_setX_cons {ds : List GrsAddr} {n : Nat} {s t : State} (h : framed ds n s t) (r : GrsAddr) (v : Word) :
    framed (r :: ds) n s (t.setX r v) := by
  obtain ⟨hc, hw⟩ := h
  exact ⟨changesOnly_setX (changesOnly_mono hc fun _ => List.mem_cons_of_mem r) r v List.mem_cons_self,
    grsWritten_setX r v fun q hq hne => hw q ((List.mem_cons.1 hq).resolve_left hne)⟩

theorem framed_congr {ds es : List GrsAddr} {n : Nat} {s t : State} (h : framed ds n s t)
    (he : ∀ r, r ∈ ds ↔ r ∈ es) : framed es n s t :=
  ⟨changesOnly_mono h.1 fun r => (he r).1, fun r hr => h.2 r ((he r).2 hr)⟩

/-- A pair written after the registers of `ds`. -/
theorem framed_setPair_append {ds : List GrsAddr} {n : Nat} {s t : State} (h : framed ds n s t) (r : GrsAddr) (d : DWord) :
    framed ([r, grsPlus r 1] ++ ds) n s (t.setPair r d) :=
  framed_congr (framed_setX_cons (framed_setX_cons h r _) (grsPlus r 1) _) fun _ => (List.Perm.swap r _ ds).mem_iff

theorem framed_setUnresolved {ds : List GrsAddr} {n : Nat} {s t : State} (h : framed ds n s t) (u : Bool) :
    framed ds n s (t.setUnresolved u) := h

theorem framed_refl (s : State) : framed [] 0 s s := ⟨changesOnly_refl s, nofun⟩

theorem indexStepped_step {s : State} {f : FormedRel} {xa : GrsAddr} (h : f.index = some xa) (hi : f.incr = true) :
    s.indexStepped f = s.setX xa (xIncrement (s.x xa) f.lay) := by
  simp [State.indexStepped, h, hi]

theorem indexStepped_still {s : State} {f : FormedRel} (hi : f.incr = false) : s.indexStepped f = s := by
  rw [State.indexStepped, hi]
  cases f.index <;> rfl

theorem indexStepped_stat (s : State) (f : FormedRel) : (s.indexStepped f).stat = s.stat := by
  unfold State.indexStepped
  split <;> rfl

/-- What EA ends in for a pair within the GRS: its pair, its index step and its STAT.u. -/
theorem exec_ea {s : State} {rd ra : GrsAddr} {f : FormedRel} (hf : formRel s (s.x ra) = f) (h : rd.toNat + 2 ≤ 128) :
    ∃ t, exec (.ea rd ra) s = .next t ∧ t.x rd = f.rel ∧ t.x (grsPlus rd 1) = f.base ∧
      (∀ q, q ≠ rd → q ≠ grsPlus rd 1 → t.x q = (s.indexStepped f).x q) ∧ t.stat = { s.stat with u := f.unresolved } ∧
      ∀ ds, framed ds 0 s (s.indexStepped f) → framed ([rd, grsPlus rd 1] ++ ds) 0 s t := by
  subst hf
  refine ⟨_, (execEa_eq rd ra s).trans (if_pos (groupOK_iff.2 h)), ?_, ?_, fun q h1 h2 => ?_, ?_, fun ds hd => ?_⟩
  · rw [setUnresolved_x, setPair_x, if_neg (grsPlus_one_ne rd).symm, if_pos rfl, hi_dw]
  · rw [setUnresolved_x, setPair_x, if_pos rfl, lo_dw]
  · rw [setUnresolved_x, setPair_x, if_neg h2, if_neg h1]
  · rw [setUnresolved_stat, setPair_stat, indexStepped_stat]
  · exact framed_setUnresolved (framed_setPair_append hd rd _) _

/-- Settles O52: the pair, the index step and STAT.u of EA, part by part. -/
theorem effectiveAddressResult : Obligations.EffectiveAddressResult := by
  intro s rd ra hrd iw basic execSet w24 x xa disp xm sum steps
  obtain ⟨t, he, hrel, hbase, hother, hstat, hframe⟩ := exec_ea (s := s) (ra := ra) rfl hrd
  have hlay : formLayout s = if w24 then .exec24 else .std := rfl
  have hwidth : 2 ^ xmWidth (formLayout s) = if w24 then 2 ^ 24 else 2 ^ 18 := by
    rw [hlay]
    split <;> rfl
  have hindex : formIndex s iw = if x = 0 then none else some xa := formIndex_eq s iw
  have hincr : (formRel s iw).incr = steps := by
    change ((formIndex s iw).isSome && iwH iw) = (decide (x ≠ 0) && iw.getLsbD 17)
    rw [hindex]
    by_cases hx : x = 0 <;> simp [hx, iwH]
  have hstepped : steps = true → s.indexStepped (formRel s iw) = s.setX xa (xIncrement (s.x xa) (formLayout s)) := by
    intro hs
    have hx : x ≠ 0 := of_decide_eq_true (Bool.and_eq_true_iff.1 hs).1
    exact indexStepped_step (hindex.trans (if_neg hx)) (hincr.trans hs)
  refine ⟨t, he, ?_, ?_, fun hs h1 h2 => ?_, hstat, ?_⟩
  · rw [hrel, ← hwidth]
    change (formRelWord s iw).toNat = (if x = 0 then disp else addN disp xm).toNat % _
    have hdisp : formDisp s iw = disp := formDisp_eq s iw
    have hxm : xmSigned (s.x xa) (formLayout s) = xm := by rw [hlay, xmSigned_ite]
    by_cases hx : x = 0
    · rw [formRelWord_toNat_of_none (hindex.trans (if_pos hx)), if_pos hx, hdisp]
    · rw [formRelWord_toNat_of_some (hindex.trans (if_neg hx)), if_neg hx, hdisp, hxm]
  · rw [hbase]
    exact formBase_toNat s iw
  · rw [hother xa h1 h2, hstepped hs, x_setX_self, hlay]
  · apply hframe
    cases hs : steps with
    | true =>
      rw [hstepped hs]
      exact framed_setX s xa _
    | false =>
      rw [indexStepped_still (hincr.trans hs)]
      exact framed_refl s

end Sys2Proof.Machine
end

section
/-! Illegal commands and unwritten registers: when a command is refused, and that what an unwritten register holds never
shows (R25, R29, R32, R34, R84, R85, R336). -/

namespace Sys2Proof.Machine

/-! A command whose K or groups are illegal is `BadCommand` -/

/-- U and XU have no insertion (R183). -/
theorem insertField_illegal {j : BitVec 4} (h : ¬j.toNat < 14) (w f : Word) (qw : Bool) : insertField w j qw f = none := by
  have hj : ∀ j : BitVec 4, ¬j.toNat < 14 → j = 14 ∨ j = 15 := by decide
  rcases hj j h with rfl | rfl <;> rfl

theorem intentOf_ne {intent : BitVec 2} {it : Intent} (h : intentOf intent = some it) : intent ≠ 3 := by
  rintro rfl
  cases h

theorem exec_illegal {i : Instr} {s : State} (h : i.wellFormed = false) : exec i s = badCommand s := by
  have hn : ¬i.wellFormed = true := by rw [h]; decide
  cases i with
  | add | sub | neg | muls | cmp | and | or | xor | lsc | rsc | lsl | rsl | lsa | rsa | fldx | mov | ldi | rddr | wrdr
  | rdpar | wrpar | rdkey | wrkey | rdstat | updf | xinc | xdec | ld | st | basebd | rcschk | rcswrs | vecrd =>
    exact absurd rfl hn
  | dadd | dsub | dneg | mul | div | divs | dcmp | dand | dor | dxor | dlsc | drsc | dlsl | drsl | dlsa | drsa | exts
  | dexts | packa | unpka | packf | unpkf | dld | dst | ldbr | stbr | ea | disp | rcswr | rcspop => exact if_neg hn
  | fldi rd ra rb j qw =>
    change execFldi rd ra rb j qw s = _
    rw [execFldi, insertField_illegal (of_decide_eq_false h)]
  | grsa rd kind n =>
    obtain rfl : kind = 3 := of_not_not (of_decide_eq_false h)
    rfl
  | xlt rd ra k intent =>
    change execXlt rd ra k intent s = _
    unfold execXlt
    split
    · rfl
    · next hi =>
      exact if_neg fun hg => hn (Bool.and_eq_true_iff.2 ⟨decide_eq_true (intentOf_ne hi), hg⟩)
  | xltn rd ra rb k intent =>
    change execXltn rd ra rb k intent s = _
    unfold execXltn
    split
    · rfl
    · next hi =>
      refine if_neg fun hg => hn (Bool.and_eq_true_iff.2 ⟨decide_eq_true (intentOf_ne hi), ?_⟩)
      exact (Bool.and_eq_true_iff.1 hg).1

/-! When the spec's outcome is `Refused(Unwritten)` -/

theorem exec_ne_unwritten (i : Instr) (s : State) : exec i s ≠ .refused .unwritten := by
  intro h
  have he : Ends i s (.refused .unwritten) := h ▸ exec_ends i s
  cases he

theorem specExec_of_illegal {i : Instr} {s : State} (h : i.wellFormed = false) : specExec i s = badCommand s := by
  rw [specExec, h, exec_illegal h]
  rfl

theorem specExec_of_reads {i : Instr} {s : State} (hw : i.wellFormed = true) (hr : readsUnwritten i s = true) :
    specExec i s = .refused .unwritten := by
  rw [specExec, hw, hr]
  rfl

theorem specExec_of_not_reads {i : Instr} {s : State} (hr : readsUnwritten i s = false) : specExec i s = exec i s := by
  rw [specExec, hr, Bool.and_false]
  rfl

/-- A legal command is refused exactly if it reads an unwritten register. -/
theorem specExec_refused_iff {i : Instr} {s : State} (hw : i.wellFormed = true) :
    specExec i s = .refused .unwritten ↔ readsUnwritten i s = true := by
  refine ⟨fun h => ?_, specExec_of_reads hw⟩
  by_contra hr
  rw [specExec_of_not_reads (by simpa using hr)] at h
  exact exec_ne_unwritten i s h

/-- What the spec does not refuse, it runs. -/
theorem specExec_of_not_refused {i : Instr} {s : State} (h : specExec i s ≠ .refused .unwritten) :
    specExec i s = exec i s := by
  cases hw : i.wellFormed with
  | false => rw [specExec_of_illegal hw, exec_illegal hw]
  | true =>
    cases hr : readsUnwritten i s with
    | false => exact specExec_of_not_reads hr
    | true => exact absurd (specExec_of_reads hw hr) h

theorem specStep_of_decode {s : State} {i : Instr} (h : decode (s.cmds.drop s.cp) = .ok i) :
    specStep s = advanceAfter i.length (specExec i s) := by
  rw [specStep, State.pending, h]

/-! The conditions of `readsUnwritten` in the terms of the rules -/

theorem unwrittenGroup_iff {s : State} {r : GrsAddr} {n : Nat} :
    s.unwrittenGroup r n = true ↔ ∃ i < n, s.unwrittenX (grsPlus r i) = true := by
  simp [State.unwrittenGroup, unwrittenX_eq]

theorem unwrittenGroup_two {s : State} {r : GrsAddr} :
    s.unwrittenGroup r 2 = true ↔ s.unwrittenX r = true ∨ s.unwrittenX (grsPlus r 1) = true := by
  have e : grsPlus r 0 = r := by simp [grsPlus]
  simp [State.unwrittenGroup, unwrittenX_eq, List.range_succ, e]

theorem keyUnwrittenAt_iff {s : State} {k : BrNum} {rel n : Nat} (hn : 0 < n) :
    keyUnwrittenAt s k rel n = true ↔ inLimits (s.b k) rel n ∧ s.written.key = false := by
  simp [keyUnwrittenAt, ← limitsOK_iff hn]

/-- XLTN looks at its range for a count that is not 0 only. -/
theorem countedKey_iff {s : State} {k : BrNum} {rel : Nat} {v : Word} :
    (decide (v.toNat ≠ 0) && keyUnwrittenAt s k rel v.toNat) = true ↔
      v ≠ 0 ∧ inLimits (s.b k) rel v.toNat ∧ s.written.key = false := by
  have h0 : v.toNat ≠ 0 ↔ v ≠ 0 := not_congr (BitVec.toNat_inj (y := (0 : Word)))
  rw [Bool.and_eq_true, decide_eq_true_iff, h0]
  exact and_congr_right fun hv => keyUnwrittenAt_iff (Nat.pos_of_ne_zero (h0.2 hv))

theorem indexUnwritten_iff {s : State} {iw : Word} :
    indexUnwritten s iw = true ↔ iw.toNat / 2 ^ 18 % 2 ^ 4 ≠ 0 ∧
      s.unwrittenX (BitVec.ofNat 7 ((if s.dr.getLsbD 18 then 96 else 0) + iw.toNat / 2 ^ 18 % 2 ^ 4)) = true := by
  unfold indexUnwritten
  by_cases hx : iw.toNat / 2 ^ 18 % 2 ^ 4 = 0
  · rw [formIndex_eq, if_pos hx]
    exact iff_of_false Bool.false_ne_true fun h => h.1 hx
  · rw [formIndex_eq, if_neg hx]
    exact (and_iff_right hx).symm

theorem or_true_iff {a b : Bool} {p q : Prop} (ha : a = true ↔ p) (hb : b = true ↔ q) : (a || b) = true ↔ p ∨ q := by
  rw [Bool.or_eq_true, ha, hb]

theorem or_or_true_iff {a b c : Bool} {p q r : Prop} (ha : a = true ↔ p) (hb : b = true ↔ q) (hc : c = true ↔ r) :
    (a || b || c) = true ↔ p ∨ q ∨ r := by
  rw [or_true_iff (or_true_iff ha hb) hc, or_assoc]

theorem rcsUnwritten_iff {s : State} : rcsUnwritten s = true ↔ s.written.dr = false ∨ s.unwrittenX 96 = true :=
  or_true_iff (iff_of_eq (Bool.not_eq_true' _)) Iff.rfl

/-- Commands that read the same registers are refused on one condition. -/
theorem refused_iff {s : State} {is : List Instr} {p : Prop} {b : Bool} (hp : b = true ↔ p)
    (hb : is.map (readsUnwritten · s) = List.replicate is.length b) :
    ∀ i ∈ is, i.wellFormed = true → (specExec i s = .refused .unwritten ↔ p) := by
  intro i hi hw
  have hi : readsUnwritten i s = b := List.map_eq_replicate_iff.1 hb i hi
  rw [specExec_refused_iff hw, hi, hp]

/-! Agreement on written registers: what two such states read alike -/

section Agreement

variable {s t : State}

theorem agree_unwrittenX (h : agreeOnWritten s t) (r : GrsAddr) : t.unwrittenX r = s.unwrittenX r := by
  obtain ⟨-, -, -, -, -, -, hw, -⟩ := h
  rw [unwrittenX_eq, unwrittenX_eq]
  simp only [hw]

theorem agree_unwrittenGroup (h : agreeOnWritten s t) (r : GrsAddr) (n : Nat) :
    t.unwrittenGroup r n = s.unwrittenGroup r n := by
  rw [Bool.eq_iff_iff, unwrittenGroup_iff, unwrittenGroup_iff]
  simp only [agree_unwrittenX h]

theorem agree_x (h : agreeOnWritten s t) {r : GrsAddr} (hr : s.unwrittenX r = false) : t.x r = s.x r := by
  obtain ⟨-, -, -, -, -, -, -, -, hx, -⟩ := h
  exact hx r hr

theorem agree_group (h : agreeOnWritten s t) {r : GrsAddr} {n i : Nat} (hr : s.unwrittenGroup r n = false) (hi : i < n) :
    t.x (grsPlus r i) = s.x (grsPlus r i) := by
  refine agree_x h (Bool.eq_false_iff.2 fun hx => ?_)
  exact Bool.eq_false_iff.1 hr (unwrittenGroup_iff.2 ⟨i, hi, hx⟩)

theorem agree_group_first (h : agreeOnWritten s t) {r : GrsAddr} {n : Nat} (hr : s.unwrittenGroup r (n + 1) = false) :
    t.x r = s.x r := by
  have e : grsPlus r 0 = r := by simp [grsPlus]
  have h0 := agree_group h hr (Nat.succ_pos n)
  rwa [e] at h0

theorem agree_pair (h : agreeOnWritten s t) {r : GrsAddr} (hr : s.unwrittenGroup r 2 = false) : t.pair r = s.pair r := by
  rw [State.pair, State.pair, agree_group_first h hr, agree_group h hr (by omega)]

theorem agree_codes (h : agreeOnWritten s t) {r : GrsAddr} {n : Nat} (w : Nat) (hr : s.unwrittenGroup r n = false) :
    t.codes w r n = s.codes w r n :=
  List.map_congr_left fun i hi => by rw [agree_group h hr (List.mem_range.1 hi)]

theorem agree_dr (h : agreeOnWritten s t) (hd : (!s.written.dr) = false) : t.dr = s.dr := by
  obtain ⟨-, -, -, -, -, -, -, -, -, hdr, -⟩ := h
  exact hdr (by simpa using hd)

theorem agree_par (h : agreeOnWritten s t) (hp : (!s.written.par) = false) : t.par = s.par := by
  obtain ⟨-, -, -, -, -, -, -, -, -, -, hpar, -⟩ := h
  exact hpar (by simpa using hp)

theorem agree_key (h : agreeOnWritten s t) (hk : (!s.written.key) = false) : t.key = s.key := by
  obtain ⟨-, -, -, -, -, -, -, -, -, -, -, hkey⟩ := h
  exact hkey (by simpa using hk)

theorem basic_of_dr (hd : t.dr = s.dr) : t.basic = s.basic := by rw [State.basic, State.basic, hd]

theorem x24_of_dr (hd : t.dr = s.dr) : t.x24 = s.x24 := by rw [State.x24, State.x24, hd]

theorem execSet_of_dr (hd : t.dr = s.dr) : t.execSet = s.execSet := by rw [State.execSet, State.execSet, hd]

theorem agree_cfg (h : agreeOnWritten s t) : t.cfg = s.cfg := h.1

theorem agree_written (h : agreeOnWritten s t) : t.written = s.written := by
  obtain ⟨-, -, -, -, -, -, hw, -⟩ := h
  exact hw

theorem agree_stat (h : agreeOnWritten s t) : t.stat = s.stat := by
  obtain ⟨-, -, -, hstat, -⟩ := h
  exact hstat

theorem agree_b (h : agreeOnWritten s t) (k : BrNum) : t.b k = s.b k := by
  obtain ⟨-, -, -, -, hbr, -⟩ := h
  exact b_of_br hbr k

theorem agree_command (h : agreeOnWritten s t) : t.command = s.command := by
  obtain ⟨-, hcmds, hcp, -⟩ := h
  rw [State.command, State.command, hcmds, hcp]

theorem agree_firstAbsent (h : agreeOnWritten s t) (a : AbsAddr) (n : Nat) : t.firstAbsent a n = s.firstAbsent a n := by
  simp only [State.firstAbsent, State.present, agree_cfg h]

theorem agree_memRead (h : agreeOnWritten s t) (a : AbsAddr) (n : Nat) : memRead t a n = memRead s a n := by
  have hr : ∀ i b, t.readWord i b = s.readWord i b := by
    obtain ⟨hcfg, -, -, -, -, hmem, -, hdraws, -⟩ := h
    intro i b
    have hshared : t.sharedWord b = s.sharedWord b := by simp only [State.sharedWord, hcfg]
    rw [State.readWord, State.readWord, hshared, hmem, hdraws]
  simp only [memRead, agree_firstAbsent h, hr]

/-- A translation reads KEY where the limits pass only. -/
theorem agree_translate (h : agreeOnWritten s t) {k : BrNum} {rel n : Nat} (intent : Intent)
    (hk : keyUnwrittenAt s k rel n = false) : translate t k rel n intent = translate s k rel n intent := by
  cases hl : limitsOK (s.b k) rel n with
  | false =>
    rw [translate_limits hl, translate_limits (by rw [agree_b h, hl])]
  | true =>
    rw [keyUnwrittenAt, hl, Bool.true_and] at hk
    simp only [translate, agree_b h, agree_key h hk]

/-! What they do to agreeing states -/

theorem agree_setX (h : agreeOnWritten s t) (r : GrsAddr) (v : Word) : agreeOnWritten (s.setX r v) (t.setX r v) := by
  obtain ⟨hcfg, hcmds, hcp, hstat, hbr, hmem, hw, hdraws, hx, hspecial⟩ := h
  refine ⟨hcfg, hcmds, hcp, hstat, hbr, hmem, by simp [hw], hdraws, fun q hq => ?_, hspecial⟩
  by_cases e : q = r
  · rw [e, x_setX_self, x_setX_self]
  · rw [unwrittenX_setX_ne _ _ _ _ e] at hq
    rw [x_setX_ne _ _ _ _ e, x_setX_ne _ _ _ _ e, hx q hq]

theorem agree_setPair (h : agreeOnWritten s t) (r : GrsAddr) (d : DWord) :
    agreeOnWritten (s.setPair r d) (t.setPair r d) :=
  agree_setX (agree_setX h r _) _ _

theorem agree_setGroup (ws : List Word) : ∀ {s t : State} (r : GrsAddr), agreeOnWritten s t →
    agreeOnWritten (s.setGroup r ws) (t.setGroup r ws) := by
  induction ws with
  | nil => exact fun _ h => h
  | cons w ws ih => exact fun r h => ih _ (agree_setX h r w)

theorem agree_setStat (h : agreeOnWritten s t) (v : Stat) : agreeOnWritten (s.setStat v) (t.setStat v) := by
  obtain ⟨hcfg, hcmds, hcp, -, hrest⟩ := h
  exact ⟨hcfg, hcmds, hcp, rfl, hrest⟩

theorem agree_setFlags (h : agreeOnWritten s t) (c o d : Bool) :
    agreeOnWritten (s.setFlags c o d) (t.setFlags c o d) := by
  rw [State.setFlags, State.setFlags, agree_stat h]
  exact agree_setStat h _

theorem agree_setUnresolved (h : agreeOnWritten s t) (u : Bool) :
    agreeOnWritten (s.setUnresolved u) (t.setUnresolved u) := by
  rw [State.setUnresolved, State.setUnresolved, agree_stat h]
  exact agree_setStat h _

theorem agree_setDr (h : agreeOnWritten s t) (v : Word) : agreeOnWritten (s.setDr v) (t.setDr v) := by
  obtain ⟨hcfg, hcmds, hcp, hstat, hbr, hmem, hw, hdraws, hx, -, hspecial⟩ := h
  exact ⟨hcfg, hcmds, hcp, hstat, hbr, hmem, by simp [hw], hdraws, hx, fun _ => rfl, hspecial⟩

theorem agree_setPar (h : agreeOnWritten s t) (v : Word) : agreeOnWritten (s.setPar v) (t.setPar v) := by
  obtain ⟨hcfg, hcmds, hcp, hstat, hbr, hmem, hw, hdraws, hx, hdr, -, hkey⟩ := h
  exact ⟨hcfg, hcmds, hcp, hstat, hbr, hmem, by simp [hw], hdraws, hx, hdr, fun _ => rfl, hkey⟩

theorem agree_setKey (h : agreeOnWritten s t) (v : BitVec 18) : agreeOnWritten (s.setKey v) (t.setKey v) := by
  obtain ⟨hcfg, hcmds, hcp, hstat, hbr, hmem, hw, hdraws, hx, hdr, hpar, -⟩ := h
  exact ⟨hcfg, hcmds, hcp, hstat, hbr, hmem, by simp [hw], hdraws, hx, hdr, hpar, fun _ => rfl⟩

theorem agree_setB (h : agreeOnWritten s t) (k : BrNum) (v : BaseReg) : agreeOnWritten (s.setB k v) (t.setB k v) := by
  obtain ⟨hcfg, hcmds, hcp, hstat, hbr, hrest⟩ := h
  exact ⟨hcfg, hcmds, hcp, hstat, by simp [hbr], hrest⟩

theorem agree_drew (h : agreeOnWritten s t) (n : Nat) : agreeOnWritten (s.drew n) (t.drew n) := by
  obtain ⟨hcfg, hcmds, hcp, hstat, hbr, hmem, hw, hdraws, hrest⟩ := h
  exact ⟨hcfg, hcmds, hcp, hstat, hbr, hmem, hw, by simp [hdraws], hrest⟩

/-- A storage write refuses in both states alike, or leaves them agreeing. -/
theorem agree_memWrite (h : agreeOnWritten s t) (a : AbsAddr) (ws : List Word) :
    (∃ r, memWrite s a ws = .error r ∧ memWrite t a ws = .error r) ∨
      ∃ u v, memWrite s a ws = .ok u ∧ memWrite t a ws = .ok v ∧ agreeOnWritten u v := by
  unfold memWrite
  rw [agree_firstAbsent h]
  cases s.firstAbsent a ws.length with
  | some b => exact .inl ⟨_, rfl, rfl⟩
  | none =>
    obtain ⟨hcfg, hcmds, hcp, hstat, hbr, hmem, hrest⟩ := h
    exact .inr ⟨_, _, rfl, rfl, hcfg, hcmds, hcp, hstat, hbr, by rw [hmem], hrest⟩

/-! Outcomes that agree -/

theorem agree_badCommand (h : agreeOnWritten s t) : agreeOutcomes (badCommand s) (badCommand t) := by
  rw [badCommand, badCommand, agree_command h]
  rfl

theorem agree_checked (h : agreeOnWritten s t) (c : Prop) [Decidable c] {p q : Result} (hpq : agreeOutcomes p q) :
    agreeOutcomes (if c then p else badCommand s) (if c then q else badCommand t) := by
  split
  · exact hpq
  · exact agree_badCommand h

theorem agree_doneX (h : agreeOnWritten s t) {r : GrsAddr} {v w : Word} (e : w = v) :
    agreeOutcomes (done (s.setX r v)) (done (t.setX r w)) := e ▸ agree_setX h r v

theorem agree_donePair (h : agreeOnWritten s t) {r : GrsAddr} {v w : DWord} (e : w = v) :
    agreeOutcomes (done (s.setPair r v)) (done (t.setPair r w)) := e ▸ agree_setPair h r v

theorem agree_doneGroup (h : agreeOnWritten s t) {r : GrsAddr} {vs ws : List Word} (e : ws = vs) :
    agreeOutcomes (done (s.setGroup r vs)) (done (t.setGroup r ws)) := e ▸ agree_setGroup vs r h

theorem agree_addInto (h : agreeOnWritten s t) {rd : GrsAddr} {a b a' b' : Word} (ha : a' = a) (hb : b' = b) :
    agreeOutcomes (addInto rd a b s) (addInto rd a' b' t) := by
  subst ha hb
  exact agree_setFlags (agree_setX h _ _) _ _ _

theorem agree_daddInto (h : agreeOnWritten s t) {rd : GrsAddr} {a b a' b' : DWord} (ha : a' = a) (hb : b' = b) :
    agreeOutcomes (daddInto rd a b s) (daddInto rd a' b' t) := by
  subst ha hb
  exact agree_setFlags (agree_setPair h _ _) _ _ _

theorem agree_divInto (h : agreeOnWritten s t) {rd : GrsAddr} {p q : Option DivOut} (e : q = p) :
    agreeOutcomes (divInto rd p s) (divInto rd q t) := by
  subst e
  cases q with
  | none => rfl
  | some o => exact agree_setFlags (agree_setX (agree_setX h _ _) _ _) _ _ _

theorem agree_translateInto (h : agreeOnWritten s t) {rd : GrsAddr} {k : BrNum} {rel rel' n n' : Nat} {intent : Intent}
    (hrel : rel' = rel) (hn : n' = n) (hk : keyUnwrittenAt s k rel n = false) :
    agreeOutcomes (translateInto rd k rel n intent s) (translateInto rd k rel' n' intent t) := by
  subst hrel hn
  rw [translateInto, translateInto, agree_translate h intent hk]
  cases translate s k rel' n' intent with
  | error f => rfl
  | ok a => exact agree_setPair h _ _

theorem agree_storeAt (h : agreeOnWritten s t) {k : BrNum} {rel rel' : Nat} {ws ws' : List Word}
    (hrel : rel' = rel) (hws : ws' = ws) (hk : keyUnwrittenAt s k rel ws.length = false) :
    agreeOutcomes (storeAt k rel ws s) (storeAt k rel' ws' t) := by
  subst hrel hws
  rw [storeAt, storeAt, agree_translate h .write hk]
  cases translate s k rel' ws'.length .write with
  | error f => rfl
  | ok a =>
    rcases agree_memWrite h a ws' with ⟨r, hs, ht⟩ | ⟨u, v, hs, ht, huv⟩
    · simp only [hs, ht]
      rfl
    · simp only [hs, ht]
      exact huv

theorem agree_fldi (h : agreeOnWritten s t) {rd ra rb : GrsAddr} (j : BitVec 4) (qw : Bool)
    (ha : t.x ra = s.x ra) (hb : t.x rb = s.x rb) :
    agreeOutcomes (execFldi rd ra rb j qw s) (execFldi rd ra rb j qw t) := by
  rw [execFldi, execFldi, ha, hb]
  cases insertField (s.x rb) j qw (s.x ra) with
  | some w => exact agree_setX h _ _
  | none => exact agree_badCommand h

theorem agree_grsa (h : agreeOnWritten s t) (rd : GrsAddr) (kind : BitVec 2) (n : BitVec 4) (hd : t.dr = s.dr) :
    agreeOutcomes (execGrsa rd kind n s) (execGrsa rd kind n t) := by
  rw [execGrsa, execGrsa, execSet_of_dr hd]
  cases resolveDesignator kind s.execSet n with
  | some r => exact agree_setX h _ _
  | none => exact agree_badCommand h

theorem agree_xlt (h : agreeOnWritten s t) {rd ra : GrsAddr} {k : BrNum} (intent : BitVec 2) (ha : t.x ra = s.x ra)
    (hk : keyUnwrittenAt s k (s.x ra).toNat 1 = false) :
    agreeOutcomes (execXlt rd ra k intent s) (execXlt rd ra k intent t) := by
  rw [execXlt, execXlt, ha]
  cases intentOf intent with
  | none => exact agree_badCommand h
  | some it => exact agree_checked h _ (agree_translateInto h rfl rfl hk)

theorem agree_xltn (h : agreeOnWritten s t) {rd ra rb : GrsAddr} {k : BrNum} (intent : BitVec 2)
    (ha : t.x ra = s.x ra) (hb : t.x rb = s.x rb)
    (hk : (decide ((s.x rb).toNat ≠ 0) && keyUnwrittenAt s k (s.x ra).toNat (s.x rb).toNat) = false) :
    agreeOutcomes (execXltn rd ra rb k intent s) (execXltn rd ra rb k intent t) := by
  rw [execXltn, execXltn, ha, hb]
  cases intentOf intent with
  | none => exact agree_badCommand h
  | some it =>
    by_cases h0 : (s.x rb).toNat = 0
    · simp only [h0, ne_eq, not_true, decide_false, Bool.and_false, Bool.false_eq_true, if_false]
      exact agree_badCommand h
    · rw [decide_eq_true h0, Bool.true_and] at hk
      exact agree_checked h _ (agree_translateInto h rfl rfl hk)

theorem agree_ld (h : agreeOnWritten s t) {rd ra : GrsAddr} {k : BrNum} (ha : t.x ra = s.x ra)
    (hk : keyUnwrittenAt s k (s.x ra).toNat 1 = false) : agreeOutcomes (execLd rd ra k s) (execLd rd ra k t) := by
  rw [execLd, execLd, ha, agree_translate h .read hk]
  cases translate s k (s.x ra).toNat 1 .read with
  | error f => rfl
  | ok a =>
    simp only [agree_memRead h]
    cases memRead s a 1 with
    | error r => rfl
    | ok w => exact agree_setX (agree_drew h 1) _ _

theorem agree_dld (h : agreeOnWritten s t) {rd ra : GrsAddr} {k : BrNum} (ha : t.x ra = s.x ra)
    (hk : keyUnwrittenAt s k (s.x ra).toNat 2 = false) : agreeOutcomes (execDld rd ra k s) (execDld rd ra k t) := by
  refine agree_checked h _ ?_
  rw [ha, agree_translate h .read hk]
  cases translate s k (s.x ra).toNat 2 .read with
  | error f => rfl
  | ok a =>
    simp only [agree_memRead h]
    cases memRead s a 2 with
    | error r => rfl
    | ok w => exact agree_setPair (agree_drew h 2) _ _

theorem agree_ldbr (h : agreeOnWritten s t) {ra : GrsAddr} (k : BrNum) (hg : s.unwrittenGroup ra 4 = false) :
    agreeOutcomes (execLdbr ra k s) (execLdbr ra k t) := by
  refine agree_checked h _ ?_
  rw [agree_group_first h hg, agree_group h hg (by omega : 1 < 4), agree_group h hg (by omega : 2 < 4),
    agree_group h hg (by omega : 3 < 4)]
  exact agree_setB h _ _

theorem agree_basebd (h : agreeOnWritten s t) {ra rb : GrsAddr} (k : BrNum) (ha : t.x ra = s.x ra)
    (hb : t.x rb = s.x rb) (hd : t.dr = s.dr) : agreeOutcomes (execBasebd ra rb k s) (execBasebd ra rb k t) := by
  have hfault : ∀ kind l bdi, addressingFault t kind l bdi = addressingFault s kind l bdi := by
    intro kind l bdi
    rw [addressingFault, addressingFault, State.fhip, State.fhip, hd]
  have haddr : ∀ l bdi, descriptorAddr t l bdi = descriptorAddr s l bdi := by
    intro l bdi
    rw [descriptorAddr, descriptorAddr, agree_b h]
  simp only [execBasebd, ha, hb, hfault, haddr, agree_b h, agree_memRead h]
  split
  · rfl
  · split
    · rfl
    · cases memRead s (descriptorAddr s (wordL (s.x ra)) (wordBDI (s.x ra))) 8 with
      | error r => rfl
      | ok w =>
        dsimp only
        split
        · rfl
        · exact agree_setB (agree_drew h 8) _ _

theorem formIndex_of_dr (hd : t.dr = s.dr) (iw : Word) : formIndex t iw = formIndex s iw := by
  rw [formIndex, formIndex, execSet_of_dr hd]

/-- The parts of a formed address read the instruction word, DR and the index register it names. -/
theorem agree_formRel (h : agreeOnWritten s t) (hd : t.dr = s.dr) {iw : Word} (hi : indexUnwritten s iw = false) :
    formRel t iw = formRel s iw := by
  have hlay : formLayout t = formLayout s := by
    rw [formLayout, formLayout, basic_of_dr hd, x24_of_dr hd, execSet_of_dr hd]
  have hdisp : formDisp t iw = formDisp s iw := by rw [formDisp, formDisp, basic_of_dr hd]
  have hbase : formBase t iw = formBase s iw := by rw [formBase, formBase, basic_of_dr hd]
  have hrel : formRelWord t iw = formRelWord s iw := by
    unfold indexUnwritten at hi
    simp only [formRelWord, formIndex_of_dr hd, hlay, hdisp]
    cases hx : formIndex s iw with
    | none => rfl
    | some xa =>
      simp only [hx] at hi
      simp only [agree_x h hi]
  simp only [formRel, hrel, hbase, formIndex_of_dr hd, hlay, basic_of_dr hd]

theorem agree_indexStepped (h : agreeOnWritten s t) {iw : Word} (hi : indexUnwritten s iw = false) :
    agreeOnWritten (s.indexStepped (formRel s iw)) (t.indexStepped (formRel s iw)) := by
  unfold indexUnwritten at hi
  cases hx : formIndex s iw with
  | none =>
    have he : (formRel s iw).incr = false := by
      change ((formIndex s iw).isSome && iwH iw) = false
      rw [hx]
      rfl
    rw [indexStepped_still he, indexStepped_still he]
    exact h
  | some xa =>
    simp only [hx] at hi
    cases he : (formRel s iw).incr with
    | true =>
      rw [indexStepped_step (f := formRel s iw) hx he, indexStepped_step (f := formRel s iw) hx he, agree_x h hi]
      exact agree_setX h _ _
    | false =>
      rw [indexStepped_still he, indexStepped_still he]
      exact h

theorem agree_ea (h : agreeOnWritten s t) {rd ra : GrsAddr} (ha : t.x ra = s.x ra) (hd : t.dr = s.dr)
    (hi : indexUnwritten s (s.x ra) = false) : agreeOutcomes (execEa rd ra s) (execEa rd ra t) := by
  rw [execEa_eq, execEa_eq, ha, agree_formRel h hd hi]
  exact agree_checked h _ (agree_setUnresolved (agree_setPair (agree_indexStepped h hi) _ _) _)

theorem agree_disp (h : agreeOnWritten s t) {rd ra : GrsAddr} (ha : t.x ra = s.x ra) (hd : t.dr = s.dr) :
    agreeOutcomes (execDisp rd ra s) (execDisp rd ra t) := by
  have ht : modeTable t = modeTable s := by rw [modeTable, modeTable, basic_of_dr hd, agree_cfg h]
  refine agree_checked h _ ?_
  rw [ha, ht, agree_cfg h]
  cases lookup (modeTable s) (s.x ra) with
  | none => rfl
  | some hid => exact agree_setPair h _ _

/-! The Return Control Stack reads DR and EX0 -/

theorem agree_rcs (h : agreeOnWritten s t) (hr : rcsUnwritten s = false) : t.dr = s.dr ∧ t.x rcsXr = s.x rcsXr :=
  have ⟨hd, hx⟩ := Bool.or_eq_false_iff.1 hr
  ⟨agree_dr h hd, agree_x h hx⟩

theorem agree_framePointer (h : agreeOnWritten s t) (hr : rcsUnwritten s = false) : framePointer t = framePointer s := by
  obtain ⟨hd, hx⟩ := agree_rcs h hr
  rw [framePointer, framePointer, rcsLayout, rcsLayout, x24_of_dr hd, hx]

theorem agree_setFramePointer (h : agreeOnWritten s t) (hr : rcsUnwritten s = false) (n fp : Nat) :
    agreeOnWritten ((s.drew n).setFramePointer fp) ((t.drew n).setFramePointer fp) := by
  obtain ⟨hd, hx⟩ := agree_rcs h hr
  have hl : rcsLayout t = rcsLayout s := by rw [rcsLayout, rcsLayout, x24_of_dr hd]
  have hv : withXM (t.x rcsXr) (rcsLayout t) (BitVec.ofNat 36 fp) =
      withXM (s.x rcsXr) (rcsLayout s) (BitVec.ofNat 36 fp) := by rw [hl, hx]
  change agreeOnWritten _ ((t.drew n).setX rcsXr (withXM (t.x rcsXr) (rcsLayout t) (BitVec.ofNat 36 fp)))
  rw [hv]
  exact agree_setX (agree_drew h n) _ _

theorem agree_pushFrame (h : agreeOnWritten s t) (hr : rcsUnwritten s = false) {f0 f1 g0 g1 : Word} (h0 : g0 = f0)
    (h1 : g1 = f1) : agreeOutcomes (pushFrame f0 f1 s) (pushFrame g0 g1 t) := by
  subst h0 h1
  simp only [pushFrame, agree_framePointer h hr, agree_b h]
  split
  · rfl
  · rcases agree_memWrite h (addrPlus (s.b rcsBr).base (framePointer s)) [g0, g1] with
      ⟨r, hs, ht⟩ | ⟨u, v, hs, ht, huv⟩
    · simp only [hs, ht]
      rfl
    · simp only [hs, ht]
      exact huv

theorem agree_rcschk (h : agreeOnWritten s t) (hr : rcsUnwritten s = false) (rd : GrsAddr) :
    agreeOutcomes (execRcschk rd s) (execRcschk rd t) := by
  have hc : pushCheck t = pushCheck s := by simp only [pushCheck, agree_framePointer h hr, agree_b h]
  rw [execRcschk, execRcschk, hc]
  cases pushCheck s with
  | error f => rfl
  | ok new => exact agree_setX (agree_setFramePointer h hr 0 new) _ _

theorem agree_rcspop (h : agreeOnWritten s t) (hr : rcsUnwritten s = false) (rd : GrsAddr) :
    agreeOutcomes (execRcspop rd s) (execRcspop rd t) := by
  have hc : popCheck t = popCheck s := by simp only [popCheck, agree_framePointer h hr, agree_b h]
  refine agree_checked h _ ?_
  rw [hc]
  cases popCheck s with
  | error f => rfl
  | ok fp =>
    simp only [agree_memRead h, agree_b h]
    cases memRead s (addrPlus (s.b rcsBr).base fp) 2 with
    | error r => rfl
    | ok w => exact agree_setPair (agree_setFramePointer h hr 2 _) _ _

theorem agree_vecrd (h : agreeOnWritten s t) (rd : GrsAddr) (c : BitVec 6) :
    agreeOutcomes (execVecrd rd c s) (execVecrd rd c t) := by
  simp only [execVecrd, agree_b h, agree_memRead h]
  split
  · rfl
  · cases memRead s (addrPlus (s.b vecBr).base c.toNat) 1 with
    | error r => rfl
    | ok w => exact agree_setX (agree_drew h 1) _ _

end Agreement

/-! The whole instruction set -/

/-- The second condition is looked at only where the first does not hold. -/
theorem or_congr_left_false {a b c : Bool} (h : a = false → b = c) : (a || b) = (a || c) := by
  cases a with
  | false => exact h rfl
  | true => rfl

/-- Whether a command reads an unwritten register does not depend on what unwritten registers hold. -/
theorem agree_readsUnwritten {s t : State} (h : agreeOnWritten s t) (i : Instr) :
    readsUnwritten i t = readsUnwritten i s := by
  have hrcs : rcsUnwritten t = rcsUnwritten s := by
    rw [rcsUnwritten, rcsUnwritten, agree_written h, agree_unwrittenX h]
  have hkey : ∀ k rel n, keyUnwrittenAt t k rel n = keyUnwrittenAt s k rel n := by
    intro k rel n
    rw [keyUnwrittenAt, keyUnwrittenAt, agree_b h, agree_written h]
  cases i with
  | xlt rd ra k | ld rd ra k | dld rd ra k =>
    simp only [readsUnwritten, agree_unwrittenX h, hkey]
    exact or_congr_left_false fun ha => by rw [agree_x h ha]
  | st ra rb k | dst ra rb k =>
    simp only [readsUnwritten, agree_unwrittenX h, agree_unwrittenGroup h, hkey, Bool.or_assoc]
    exact or_congr_left_false fun ha => by rw [agree_x h ha]
  | xltn rd ra rb k =>
    simp only [readsUnwritten, agree_unwrittenX h, hkey, Bool.or_assoc]
    exact or_congr_left_false fun ha => or_congr_left_false fun hb => by rw [agree_x h ha, agree_x h hb]
  | ea rd ra =>
    simp only [readsUnwritten, agree_unwrittenX h, agree_written h, Bool.or_assoc]
    refine or_congr_left_false fun ha => or_congr_left_false fun hd => ?_
    simp only [indexUnwritten, agree_x h ha, formIndex_of_dr (agree_dr h hd), agree_unwrittenX h]
  | _ => simp only [readsUnwritten, agree_unwrittenX h, agree_unwrittenGroup h, agree_written h, hrcs]

/-- A command that reads written registers only ends alike in states that agree on them. -/
theorem agree_exec {s t : State} (h : agreeOnWritten s t) (i : Instr) (hr : readsUnwritten i s = false) :
    agreeOutcomes (exec i s) (exec i t) := by
  cases i with
  | add rd ra rb =>
    have ⟨ha, hb⟩ := Bool.or_eq_false_iff.1 hr
    exact agree_addInto h (agree_x h ha) (agree_x h hb)
  | sub rd ra rb =>
    have ⟨ha, hb⟩ := Bool.or_eq_false_iff.1 hr
    exact agree_addInto h (agree_x h ha) (congrArg negN (agree_x h hb))
  | neg rd ra =>
    change agreeOutcomes (execNeg rd ra s) (execNeg rd ra t)
    rw [execNeg, execNeg, agree_x h hr]
    exact agree_setFlags (agree_setX h _ _) _ _ _
  | muls rd ra rb =>
    have ⟨ha, hb⟩ := Bool.or_eq_false_iff.1 hr
    change agreeOutcomes (execMuls rd ra rb s) (execMuls rd ra rb t)
    rw [execMuls, execMuls, agree_x h ha, agree_x h hb]
    exact agree_setFlags (agree_setX h _ _) _ _ _
  | dneg rd ra =>
    refine agree_checked h _ ?_
    rw [agree_pair h hr]
    exact agree_setFlags (agree_setPair h _ _) _ _ _
  | mul rd ra rb =>
    have ⟨ha, hb⟩ := Bool.or_eq_false_iff.1 hr
    refine agree_checked h _ ?_
    rw [agree_x h ha, agree_x h hb]
    exact agree_setFlags (agree_setPair h _ _) _ _ _
  | div rd ra rb =>
    have ⟨ha, hb⟩ := Bool.or_eq_false_iff.1 hr
    exact agree_checked h _ (agree_divInto h (by rw [agree_pair h ha, agree_x h hb]))
  | divs rd ra rb =>
    have ⟨ha, hb⟩ := Bool.or_eq_false_iff.1 hr
    exact agree_checked h _ (agree_divInto h (by rw [agree_x h ha, agree_x h hb]))
  | dadd rd ra rb =>
    have ⟨ha, hb⟩ := Bool.or_eq_false_iff.1 hr
    exact agree_checked h _ (agree_daddInto h (agree_pair h ha) (agree_pair h hb))
  | dsub rd ra rb =>
    have ⟨ha, hb⟩ := Bool.or_eq_false_iff.1 hr
    exact agree_checked h _ (agree_daddInto h (agree_pair h ha) (congrArg negN (agree_pair h hb)))
  | cmp rd ra rb | and rd ra rb | or rd ra rb | xor rd ra rb =>
    have ⟨ha, hb⟩ := Bool.or_eq_false_iff.1 hr
    exact agree_doneX h (by rw [agree_x h ha, agree_x h hb])
  | lsc rd ra rb | rsc rd ra rb | lsl rd ra rb | rsl rd ra rb | lsa rd ra rb | rsa rd ra rb =>
    have ⟨ha, hb⟩ := Bool.or_eq_false_iff.1 hr
    exact agree_doneX h (by rw [agree_x h ha, agree_x h hb, agree_cfg h])
  | dcmp rd ra rb =>
    have ⟨ha, hb⟩ := Bool.or_eq_false_iff.1 hr
    exact agree_checked h _ (agree_doneX h (by rw [agree_pair h ha, agree_pair h hb]))
  | dand rd ra rb | dor rd ra rb | dxor rd ra rb =>
    have ⟨ha, hb⟩ := Bool.or_eq_false_iff.1 hr
    exact agree_checked h _ (agree_donePair h (by rw [agree_pair h ha, agree_pair h hb]))
  | dlsc rd ra rb | drsc rd ra rb | dlsl rd ra rb | drsl rd ra rb | dlsa rd ra rb | drsa rd ra rb =>
    have ⟨ha, hb⟩ := Bool.or_eq_false_iff.1 hr
    exact agree_checked h _ (agree_donePair h (by rw [agree_pair h ha, agree_x h hb, agree_cfg h]))
  | exts rd ra n => exact agree_checked h _ (agree_doneX h (by rw [agree_x h hr]))
  | dexts rd ra n => exact agree_checked h _ (agree_donePair h (by rw [agree_pair h hr]))
  | fldx rd ra j qw => exact agree_doneX h (by rw [agree_x h hr])
  | fldi rd ra rb j qw =>
    have ⟨ha, hb⟩ := Bool.or_eq_false_iff.1 hr
    exact agree_fldi h j qw (agree_x h ha) (agree_x h hb)
  | packa rd ra k | packf rd ra k => exact agree_checked h _ (agree_doneX h (by rw [agree_codes h _ hr]))
  | unpka rd ra | unpkf rd ra => exact agree_checked h _ (agree_doneGroup h (by rw [agree_x h hr]))
  | mov rd ra => exact agree_doneX h (agree_x h hr)
  | ldi rd lit => exact agree_doneX h rfl
  | rddr rd => exact agree_doneX h (agree_dr h hr)
  | rdpar rd => exact agree_doneX h (agree_par h hr)
  | rdkey rd => exact agree_doneX h (by rw [agree_key h hr])
  | rdstat rd => exact agree_doneX h (by rw [agree_stat h])
  | wrdr ra =>
    change agreeOutcomes (execWrdr ra s) (execWrdr ra t)
    rw [execWrdr, execWrdr, agree_x h hr]
    exact agree_setDr h _
  | wrpar ra =>
    change agreeOutcomes (execWrpar ra s) (execWrpar ra t)
    rw [execWrpar, execWrpar, agree_x h hr]
    exact agree_setPar h _
  | wrkey ra =>
    change agreeOutcomes (execWrkey ra s) (execWrkey ra t)
    rw [execWrkey, execWrkey, agree_x h hr]
    exact agree_setKey h _
  | updf =>
    change agreeOutcomes (execUpdf s) (execUpdf t)
    rw [execUpdf, execUpdf, agree_dr h hr, agree_stat h]
    exact agree_setDr h _
  | xinc rd lay | xdec rd lay => exact agree_doneX h (by rw [agree_x h hr])
  | grsa rd kind n => exact agree_grsa h rd kind n (agree_dr h hr)
  | xlt rd ra k intent =>
    have ⟨ha, hk⟩ := Bool.or_eq_false_iff.1 hr
    exact agree_xlt h intent (agree_x h ha) hk
  | xltn rd ra rb k intent =>
    have ⟨hab, hk⟩ := Bool.or_eq_false_iff.1 hr
    have ⟨ha, hb⟩ := Bool.or_eq_false_iff.1 hab
    exact agree_xltn h intent (agree_x h ha) (agree_x h hb) hk
  | ld rd ra k =>
    have ⟨ha, hk⟩ := Bool.or_eq_false_iff.1 hr
    exact agree_ld h (agree_x h ha) hk
  | st ra rb k =>
    have ⟨hab, hk⟩ := Bool.or_eq_false_iff.1 hr
    have ⟨ha, hb⟩ := Bool.or_eq_false_iff.1 hab
    exact agree_storeAt h (by rw [agree_x h ha]) (by rw [agree_x h hb]) hk
  | dld rd ra k =>
    have ⟨ha, hk⟩ := Bool.or_eq_false_iff.1 hr
    exact agree_dld h (agree_x h ha) hk
  | dst ra rb k =>
    have ⟨hab, hk⟩ := Bool.or_eq_false_iff.1 hr
    have ⟨ha, hb⟩ := Bool.or_eq_false_iff.1 hab
    refine agree_checked h _ (agree_storeAt h (by rw [agree_x h ha]) ?_ hk)
    rw [agree_group_first h hb, agree_group h hb (by omega : 1 < 2)]
  | ldbr ra k => exact agree_ldbr h k hr
  | stbr rd k => exact agree_checked h _ (agree_doneGroup h (by rw [agree_b h]))
  | basebd ra rb k =>
    have ⟨hab, hd⟩ := Bool.or_eq_false_iff.1 hr
    have ⟨ha, hb⟩ := Bool.or_eq_false_iff.1 hab
    exact agree_basebd h k (agree_x h ha) (agree_x h hb) (agree_dr h hd)
  | ea rd ra =>
    have ⟨had, hi⟩ := Bool.or_eq_false_iff.1 hr
    have ⟨ha, hd⟩ := Bool.or_eq_false_iff.1 had
    exact agree_ea h (agree_x h ha) (agree_dr h hd) hi
  | disp rd ra =>
    have ⟨ha, hd⟩ := Bool.or_eq_false_iff.1 hr
    exact agree_disp h (agree_x h ha) (agree_dr h hd)
  | rcschk rd => exact agree_rcschk h hr rd
  | rcswr ra =>
    have ⟨ha, hrcs⟩ := Bool.or_eq_false_iff.1 hr
    exact agree_checked h _ (agree_pushFrame h hrcs (agree_group_first h ha) (agree_group h ha (by omega : 1 < 2)))
  | rcswrs tag =>
    have ⟨hspecial, hrcs⟩ := Bool.or_eq_false_iff.1 hr
    have ⟨hpd, hk⟩ := Bool.or_eq_false_iff.1 hspecial
    have ⟨hp, hd⟩ := Bool.or_eq_false_iff.1 hpd
    exact agree_pushFrame h hrcs (by rw [agree_par h hp]) (by rw [agree_dr h hd, agree_key h hk])
  | rcspop rd => exact agree_rcspop h hr rd
  | vecrd rd c => exact agree_vecrd h rd c

/-- What an unwritten register holds never shows in the spec's outcome. -/
theorem agree_specExec {s t : State} (h : agreeOnWritten s t) (i : Instr) :
    agreeOutcomes (specExec i s) (specExec i t) := by
  cases hw : i.wellFormed with
  | false =>
    rw [specExec_of_illegal hw, specExec_of_illegal hw]
    exact agree_badCommand h
  | true =>
    have ht := agree_readsUnwritten h i
    cases hr : readsUnwritten i s with
    | true =>
      rw [specExec_of_reads hw hr, specExec_of_reads hw (ht.trans hr)]
      rfl
    | false =>
      rw [specExec_of_not_reads hr, specExec_of_not_reads (ht.trans hr)]
      exact agree_exec h i hr

/-- Settles O60: the condition of each refusal, the outcome where there is none, and agreement of the outcomes. -/
theorem unwrittenNeverShows : Obligations.UnwrittenNeverShows := by
  refine ⟨?_, fun i s => ⟨specExec_of_illegal, specExec_of_not_refused, exec_ne_unwritten i s, fun hd => ⟨?_, ?_⟩⟩,
    fun i s t h => agree_specExec h i⟩
  · intro s rd ra rb k n j c qw lay two lit un un2 dr par key keyAt x index refusedIf
    have hx : ∀ r, s.unwrittenX r = true ↔ un r := fun _ => Iff.rfl
    have hxx : ∀ r, s.unwrittenGroup r 2 = true ↔ un2 r := fun _ => unwrittenGroup_two
    have hgroup : ∀ m, s.unwrittenGroup ra m = true ↔ ∃ i < m, un (grsPlus ra i) := fun _ => unwrittenGroup_iff
    have hdr : (!s.written.dr) = true ↔ dr := iff_of_eq (Bool.not_eq_true' _)
    have hpar : (!s.written.par) = true ↔ par := iff_of_eq (Bool.not_eq_true' _)
    have hkey : (!s.written.key) = true ↔ key := iff_of_eq (Bool.not_eq_true' _)
    have hkeyAt : ∀ m, 0 < m → (keyUnwrittenAt s k (s.x ra).toNat m = true ↔ keyAt m) := fun _ => keyUnwrittenAt_iff
    have hrcs : rcsUnwritten s = true ↔ dr ∨ un 96 := rcsUnwritten_iff
    have hrcswrs : (!s.written.par || !s.written.dr || !s.written.key || rcsUnwritten s) = true ↔
        par ∨ dr ∨ key ∨ un 96 := by
      rw [or_true_iff (or_or_true_iff hpar hdr hkey) hrcs]
      grind
    exact ⟨refused_iff (or_true_iff (hx ra) (hx rb)) rfl,
      refused_iff (or_true_iff (hxx ra) (hxx rb)) rfl,
      refused_iff (or_true_iff (hxx ra) (hx rb)) rfl,
      refused_iff (hx ra) rfl,
      refused_iff (hxx ra) rfl,
      refused_iff (hgroup _) rfl,
      refused_iff (hgroup _) rfl,
      refused_iff (b := false) (iff_of_false Bool.false_ne_true id) rfl,
      refused_iff hdr rfl,
      refused_iff hpar rfl,
      refused_iff hkey rfl,
      refused_iff (hx rd) rfl,
      refused_iff (or_true_iff (hx ra) (hkeyAt 1 (by omega))) rfl,
      refused_iff (or_or_true_iff (hx ra) (hx rb) countedKey_iff) rfl,
      refused_iff (or_or_true_iff (hx ra) (hx rb) (hkeyAt 1 (by omega))) rfl,
      refused_iff (or_true_iff (hx ra) (hkeyAt 2 (by omega))) rfl,
      refused_iff (or_or_true_iff (hx ra) (hxx rb) (hkeyAt 2 (by omega))) rfl,
      refused_iff (hgroup 4) rfl,
      refused_iff (or_or_true_iff (hx ra) (hx rb) hdr) rfl,
      refused_iff (or_or_true_iff (hx ra) hdr indexUnwritten_iff) rfl,
      refused_iff (or_true_iff (hx ra) hdr) rfl,
      refused_iff hrcs rfl,
      refused_iff (or_true_iff (hxx ra) hrcs) rfl,
      refused_iff hrcswrs rfl⟩
  · intro h
    rw [specStep_of_decode hd, h]
    rfl
  · intro h
    rw [specStep_of_decode hd, step_of_decode hd, specExec_of_not_refused h]

end Sys2Proof.Machine
end

section
/-! Storage: what the commands read from it, what they write to it, and when an access is refused (R60 to R72 of
20_memory.md). -/

namespace Sys2Proof.Machine

/-! The checks before an access -/

/-- A range within the limits under a set that grants the intent translates to base plus relative address. -/
theorem translate_granted {s : State} {k : BrNum} {rel n : Nat} (intent : Intent) (hn : 0 < n)
    (hl : inLimits (s.b k) rel n) (hp : permOK (selectedPerms (s.b k) s.key) intent = true) :
    translate s k rel n intent = .ok (addrPlus (s.b k).base rel) :=
  translate_passes ((limitsOK_iff hn).2 hl) ((selectPerm_eq (s.b k) s.key).symm ▸ hp)

theorem limitsOK_false {b : BaseReg} {rel n : Nat} (hn : 0 < n) (h : ¬inLimits b rel n) : limitsOK b rel n = false :=
  Bool.eq_false_iff.2 fun hl => h ((limitsOK_iff hn).1 hl)

/-- The frame pointer as a number, by the layout that DR selects (R275). -/
theorem framePointer_eq (s : State) :
    framePointer s = (s.x 96).toNat % (if s.dr.getLsbD 28 then 2 ^ 24 else 2 ^ 18) := by
  rw [framePointer, rcsLayout, State.x24]
  split <;> exact zfield_toNat _ _ (by decide)

theorem popCheck_passes {s : State} (h : inLimits (s.b rcsBr) (framePointer s) 2) :
    popCheck s = .ok (framePointer s) := by
  obtain ⟨hvoid, hlower, hupper⟩ := h
  have hfits : ¬((s.b rcsBr).void = true ∨ framePointer s + frameWords > (s.b rcsBr).upper + 1) := by
    rintro (hv | hgt)
    · exact absurd hvoid (by simp [hv])
    · exact Nat.not_le.2 hgt hupper
  rw [popCheck, if_neg hfits, if_neg (Nat.not_lt.2 hlower)]

/-- The table register of a level/BDI word (R240). -/
theorem bdtBr_wordL (v : Word) : bdtBr (wordL v) = BitVec.ofNat 5 (16 + v.toNat / 2 ^ 33) := by
  have hv := v.isLt
  apply BitVec.eq_of_toNat_eq
  rw [bdtBr, BitVec.toNat_add, BitVec.toNat_setWidth, wordL, extract_toNat, BitVec.toNat_ofNat]
  change (16 + _) % _ = _
  omega

theorem wordBDI_toNat (v : Word) : (wordBDI v).toNat = v.toNat / 2 ^ 18 % 2 ^ 15 := extract_toNat v 18 15

theorem invalidLBDI_false {v : Word} (h : 0 < v.toNat / 2 ^ 33 ∨ 32 ≤ v.toNat / 2 ^ 18 % 2 ^ 15) :
    invalidLBDI (wordL v) (wordBDI v) = false := by
  rw [invalidLBDI, wordBDI_toNat, Bool.and_eq_false_iff, decide_eq_false_iff_not, decide_eq_false_iff_not]
  refine h.imp (fun hl h0 => ?_) Nat.not_lt.2
  have h1 : v.toNat / 2 ^ 33 % 2 ^ 3 = 0 := by rw [← extract_toNat, ← wordL, h0]; rfl
  have := v.isLt
  omega

/-! Accesses that complete -/

/-- Reading storage moves the model's counter and nothing else (log entry 9). -/
theorem framed_drew (s : State) (n : Nat) : framed [] n s (s.drew n) := ⟨changesOnly_drew s n, nofun⟩

theorem framed_read_setX (s : State) (n : Nat) (r : GrsAddr) (v : Word) : framed [r] n s ((s.drew n).setX r v) :=
  framed_setX_cons (framed_drew s n) r v

theorem framed_read_setPair (s : State) (n : Nat) (r : GrsAddr) (d : DWord) :
    framed [r, grsPlus r 1] n s ((s.drew n).setPair r d) :=
  framed_setPair_append (framed_drew s n) r d

theorem execLd_granted {s : State} {ra : GrsAddr} {k : BrNum} (rd : GrsAddr)
    (hp : (selectedPerms (s.b k) s.key).read = true) (hl : inLimits (s.b k) (s.x ra).toNat 1)
    (hs : allPresent s (addrPlus (s.b k).base (s.x ra).toNat) 1) :
    execLd rd ra k s = .next ((s.drew 1).setX rd (s.readWord 0 (addrPlus (s.b k).base (s.x ra).toNat))) := by
  rw [execLd, translate_granted .read Nat.one_pos hl hp]
  dsimp only
  rw [memRead_present hs]
  rfl

theorem execDld_granted {s : State} {rd ra : GrsAddr} {k : BrNum} (hrd : rd.toNat + 2 ≤ 128)
    (hp : (selectedPerms (s.b k) s.key).read = true) (hl : inLimits (s.b k) (s.x ra).toNat 2)
    (hs : allPresent s (addrPlus (s.b k).base (s.x ra).toNat) 2) :
    execDld rd ra k s = .next ((s.drew 2).setPair rd
      (dw (s.readWord 0 (addrPlus (s.b k).base (s.x ra).toNat))
        (s.readWord 1 (addrPlus (addrPlus (s.b k).base (s.x ra).toNat) 1)))) := by
  rw [execDld, if_pos (groupOK_iff.2 hrd), translate_granted .read Nat.two_pos hl hp]
  dsimp only
  rw [memRead_present hs]
  rfl

theorem execVecrd_present {s : State} {c : BitVec 6} (rd : GrsAddr) (hl : inLimits (s.b vecBr) c.toNat 1)
    (hs : allPresent s (addrPlus (s.b vecBr).base c.toNat) 1) :
    execVecrd rd c s = .next ((s.drew 1).setX rd (s.readWord 0 (addrPlus (s.b vecBr).base c.toNat))) := by
  rw [execVecrd, (limitsOK_iff Nat.one_pos).2 hl, memRead_present hs]
  rfl

theorem execVecrd_outside {s : State} {c : BitVec 6} (rd : GrsAddr) (hl : ¬inLimits (s.b vecBr) c.toNat 1) :
    execVecrd rd c s = .fault (limitsViolation false vecBr c.toNat) := by
  rw [execVecrd, limitsOK_false Nat.one_pos hl]
  rfl

theorem storeAt_granted {s : State} {k : BrNum} {rel : Nat} {ws : List Word} (hn : 0 < ws.length)
    (hp : (selectedPerms (s.b k) s.key).write = true) (hl : inLimits (s.b k) rel ws.length)
    (hs : allPresent s (addrPlus (s.b k).base rel) ws.length) :
    storeAt k rel ws s = .next { s with mem := s.mem.writeWords (addrPlus (s.b k).base rel) ws } := by
  rw [storeAt, translate_granted .write hn hl hp]
  dsimp only
  rw [memWrite_present hs]
  rfl

theorem onlyStorage_mem (s : State) (m : Memory) : onlyStorage s { s with mem := m } :=
  ⟨fun _ _ => ⟨rfl, rfl⟩, ⟨rfl, rfl, rfl, rfl, rfl, rfl⟩, fun _ _ => rfl, rfl, ⟨rfl, rfl, rfl⟩, rfl⟩

/-- Settles O43: both forms read the words of the translated range. -/
theorem loadResult : Obligations.LoadResult := by
  intro s rd ra k b a word hp
  refine ⟨fun hl hs => ⟨_, execLd_granted rd hp hl hs, x_setX_self _ _ _, rfl, framed_read_setX s 1 rd _⟩,
    fun hl hs hrd => ⟨_, execDld_granted hrd hp hl hs, ?_, ?_, rfl, framed_read_setPair s 2 rd _⟩⟩
  · rw [setPair_x, if_neg (grsPlus_one_ne rd).symm, if_pos rfl, hi_dw]
    rfl
  · rw [setPair_x, if_pos rfl, lo_dw]
    rfl

/-- Settles O58: within the limits the entry is read, outside it is the limits violation. -/
theorem vectorReadResult : Obligations.VectorReadResult := fun s rd _ =>
  ⟨fun hl hs => ⟨_, execVecrd_present rd hl hs, x_setX_self _ _ _, rfl, framed_read_setX s 1 rd _⟩,
    execVecrd_outside rd⟩

/-- Settles O44: read after write on the one or two words that were stored. -/
theorem storeResult : Obligations.StoreResult := by
  intro s ra rb k hwf b a hp
  refine ⟨fun hl hs => ?_, fun hl hs hrb => ?_⟩
  · refine ⟨_, storeAt_granted (ws := [s.x rb]) Nat.one_pos hp hl hs, read_write_self s.mem a _ hwf, fun c hc => ?_,
      onlyStorage_mem s _⟩
    exact read_write_ne s.mem a c _ fun e => hc (List.mem_singleton.2 e)
  · obtain ⟨h0, h1, hother⟩ := writeWords_two hwf a (s.x rb) (s.x (grsPlus rb 1))
    refine ⟨_, (if_pos (groupOK_iff.2 hrb)).trans (storeAt_granted Nat.two_pos hp hl hs), h0, h1, fun c hc => ?_,
      onlyStorage_mem s _⟩
    simp only [List.mem_cons, List.not_mem_nil, or_false, not_or] at hc
    exact hother c hc.1 hc.2

/-! What a command that ends `Done` did to storage -/

/-- The set selected for KEY on base register `k` grants writing, or the command is a push on the RCS bank (R241,
R252). -/
def MayStore (i : Instr) (s : State) (k : BrNum) : Prop :=
  (selectedPerms (s.b k) s.key).write = true ∨ (k = 25 ∧ ((∃ ra, i = .rcswr ra) ∨ ∃ tag, i = .rcswrs tag))

/-- Storage after a command: as it was, or with words written that exist and lie within the limits of a base register
through which the command may store (R65, R67). -/
inductive Stores (i : Instr) (s : State) : Memory → Prop
  | kept : Stores i s s.mem
  | words {k : BrNum} {rel : Nat} {ws : List Word} (hl : inLimits (s.b k) rel ws.length)
      (hs : allPresent s (addrPlus (s.b k).base rel) ws.length)
      (hp : MayStore i s k) : Stores i s (s.mem.writeWords (addrPlus (s.b k).base rel) ws)

theorem stores_storeAt {i : Instr} {s t : State} {k : BrNum} {rel : Nat} {ws : List Word}
    (h : storeAt k rel ws s = .next t) (hn : 0 < ws.length) : Stores i s t.mem := by
  obtain ⟨hl, hp, hs, rfl⟩ := storeAt_next h
  rw [selectPerm_eq] at hp
  exact .words ((limitsOK_iff hn).1 hl) hs (.inl hp)

theorem stores_pushFrame {i : Instr} {s t : State} {f0 f1 : Word}
    (hi : (∃ ra, i = .rcswr ra) ∨ ∃ tag, i = .rcswrs tag) (h : pushFrame f0 f1 s = .next t) : Stores i s t.mem := by
  obtain ⟨hl, hs, rfl⟩ := pushFrame_next h
  exact .words (ws := [f0, f1]) ((limitsOK_iff Nat.two_pos).1 hl) hs (.inr ⟨rfl, hi⟩)

/-- A command that ends `Done` passed the check before it. -/
theorem next_of_checked {c : Prop} [Decidable c] {r : Result} {s t : State}
    (h : (if c then r else badCommand s) = .next t) : r = .next t := by
  split at h
  · exact h
  · cases h

/-- Only the four commands that write storage need a look at what they write. -/
theorem exec_stores {i : Instr} {s t : State} (h : exec i s = .next t) : Stores i s t.mem := by
  rcases (ends_of_exec_next h).next_mem with e | ⟨ra, rb, k, rfl | rfl⟩ | ⟨ra, rfl⟩ | ⟨tag, rfl⟩
  · exact e ▸ .kept
  · exact stores_storeAt h Nat.one_pos
  · exact stores_storeAt (next_of_checked h) Nat.two_pos
  · exact stores_pushFrame (.inl ⟨ra, rfl⟩) (next_of_checked h)
  · exact stores_pushFrame (.inr ⟨tag, rfl⟩) h

theorem Stores.wf {i : Instr} {s : State} {m : Memory} (h : Stores i s m) (hs : s.mem.wf = true) : m.wf = true := by
  cases h with
  | kept => exact hs
  | words => exact writeWords_keeps_wf _ _ _ hs

/-- Settles O10: a step is idle, or its command leaves storage or writes words to it. -/
theorem stepKeepsStorageForm : Obligations.StepKeepsStorageForm := by
  intro s t hs h
  rcases step_next h with ⟨-, rfl⟩ | ⟨i, u, -, hu, rfl⟩
  · exact hs
  · exact (exec_stores hu).wf hs

/-- A word that reads differently after a write lies in the range written. -/
theorem written_of_read_ne {m : Memory} {a c : AbsAddr} {ws : List Word} (h : (m.writeWords a ws).read c ≠ m.read c) :
    ∃ j < ws.length, c = addrPlus a j := by
  by_contra hno
  exact h (read_writeWords_ne ws m a c fun j hj e => hno ⟨j, hj, e⟩)

theorem inLimits_word {b : BaseReg} {rel n j : Nat} (h : inLimits b rel n) (hj : j < n) : inLimits b (rel + j) 1 := by
  obtain ⟨hvoid, hlower, hupper⟩ := h
  exact ⟨hvoid, by omega, by omega⟩

/-- A changed word is one of the words a checked access wrote. -/
theorem Stores.of_read_ne {i : Instr} {s : State} {m : Memory} {a : AbsAddr} (h : Stores i s m)
    (hne : m.read a ≠ s.mem.read a) :
    s.present a = true ∧ ∃ (k : BrNum) (rel : Nat), a = addrPlus (s.b k).base rel ∧ inLimits (s.b k) rel 1 ∧
      MayStore i s k := by
  cases h with
  | kept => exact absurd rfl hne
  | words hl hs hp =>
    obtain ⟨j, hj, rfl⟩ := written_of_read_ne hne
    exact ⟨hs j hj, _, _, addrPlus_addrPlus _ _ _, inLimits_word hl hj, hp⟩

/-- Settles O46, from what a command that ends `Done` stored. -/
theorem storesStayInLimits : Obligations.StoresStayInLimits := fun _ _ _ _ h hne => (exec_stores h).of_read_ne hne

/-! Accesses that are refused -/

/-- Word `n` of an access from `a` on is the first that does not exist (R61, log entry 22). -/
def FirstAbsentAt (s : State) (a : AbsAddr) (n : Nat) : Prop := allPresent s a n ∧ s.present (addrPlus a n) = false

section Absent

variable {s : State} {n : Nat}

theorem FirstAbsentAt.memRead_eq {a : AbsAddr} {m : Nat} (h : FirstAbsentAt s a n) (hn : n < m) :
    memRead s a m = .error (.noStorage (addrPlus a n)) :=
  memRead_absent h.1 hn h.2

theorem FirstAbsentAt.memWrite_eq {a : AbsAddr} {ws : List Word} (h : FirstAbsentAt s a n) (hn : n < ws.length) :
    memWrite s a ws = .error (.noStorage (addrPlus a n)) :=
  memWrite_absent h.1 hn h.2

theorem execLd_absent {ra : GrsAddr} {k : BrNum} (rd : GrsAddr) (hn : n < 1)
    (hp : (selectedPerms (s.b k) s.key).read = true) (hl : inLimits (s.b k) (s.x ra).toNat 1)
    (ha : FirstAbsentAt s (addrPlus (s.b k).base (s.x ra).toNat) n) :
    execLd rd ra k s = .refused (.noStorage (addrPlus (addrPlus (s.b k).base (s.x ra).toNat) n)) := by
  rw [execLd, translate_granted .read Nat.one_pos hl hp]
  dsimp only
  rw [ha.memRead_eq hn]
  rfl

theorem execDld_absent {rd ra : GrsAddr} {k : BrNum} (hrd : rd.toNat + 2 ≤ 128) (hn : n < 2)
    (hp : (selectedPerms (s.b k) s.key).read = true) (hl : inLimits (s.b k) (s.x ra).toNat 2)
    (ha : FirstAbsentAt s (addrPlus (s.b k).base (s.x ra).toNat) n) :
    execDld rd ra k s = .refused (.noStorage (addrPlus (addrPlus (s.b k).base (s.x ra).toNat) n)) := by
  rw [execDld, if_pos (groupOK_iff.2 hrd), translate_granted .read Nat.two_pos hl hp]
  dsimp only
  rw [ha.memRead_eq hn]
  rfl

theorem storeAt_absent {k : BrNum} {rel : Nat} {ws : List Word} (hn : n < ws.length)
    (hp : (selectedPerms (s.b k) s.key).write = true) (hl : inLimits (s.b k) rel ws.length)
    (ha : FirstAbsentAt s (addrPlus (s.b k).base rel) n) :
    storeAt k rel ws s = .refused (.noStorage (addrPlus (addrPlus (s.b k).base rel) n)) := by
  rw [storeAt, translate_granted .write (Nat.zero_lt_of_lt hn) hl hp]
  dsimp only
  rw [ha.memWrite_eq hn]
  rfl

theorem execBasebd_absent {ra : GrsAddr} (rb : GrsAddr) (k : BrNum) (hn : n < 8)
    (hv : invalidLBDI (wordL (s.x ra)) (wordBDI (s.x ra)) = false)
    (hl : inLimits (s.b (bdtBr (wordL (s.x ra)))) (8 * (wordBDI (s.x ra)).toNat) 8)
    (ha : FirstAbsentAt s (descriptorAddr s (wordL (s.x ra)) (wordBDI (s.x ra))) n) :
    execBasebd ra rb k s =
      .refused (.noStorage (addrPlus (descriptorAddr s (wordL (s.x ra)) (wordBDI (s.x ra))) n)) := by
  rw [execBasebd, hv, (limitsOK_iff (by omega)).2 hl, ha.memRead_eq hn]
  rfl

theorem pushFrame_absent (f0 f1 : Word) (hn : n < 2) (hl : inLimits (s.b rcsBr) (framePointer s) 2)
    (ha : FirstAbsentAt s (addrPlus (s.b rcsBr).base (framePointer s)) n) :
    pushFrame f0 f1 s = .refused (.noStorage (addrPlus (addrPlus (s.b rcsBr).base (framePointer s)) n)) := by
  rw [pushFrame, (limitsOK_iff Nat.two_pos).2 hl, ha.memWrite_eq (ws := [f0, f1]) hn]
  rfl

theorem execRcspop_absent {rd : GrsAddr} (hrd : rd.toNat + 2 ≤ 128) (hn : n < 2)
    (hl : inLimits (s.b rcsBr) (framePointer s) 2)
    (ha : FirstAbsentAt s (addrPlus (s.b rcsBr).base (framePointer s)) n) :
    execRcspop rd s = .refused (.noStorage (addrPlus (addrPlus (s.b rcsBr).base (framePointer s)) n)) := by
  rw [execRcspop, if_pos (groupOK_iff.2 hrd), popCheck_passes hl]
  dsimp only
  rw [ha.memRead_eq hn]
  rfl

theorem execVecrd_absent {c : BitVec 6} (rd : GrsAddr) (hn : n < 1) (hl : inLimits (s.b vecBr) c.toNat 1)
    (ha : FirstAbsentAt s (addrPlus (s.b vecBr).base c.toNat) n) :
    execVecrd rd c s = .refused (.noStorage (addrPlus (addrPlus (s.b vecBr).base c.toNat) n)) := by
  rw [execVecrd, (limitsOK_iff Nat.one_pos).2 hl, ha.memRead_eq hn]
  rfl

end Absent

/-- Settles O45: each access passes its checks and comes to the first word that is absent. -/
theorem absentWordRefused : Obligations.AbsentWordRefused := by
  intro s rd ra rb k tag c n b rel p l bdi table fp absent refused
  have hfp : framePointer s = fp := framePointer_eq s
  have htable : bdtBr (wordL (s.x ra)) = BitVec.ofNat 5 (16 + l) := bdtBr_wordL (s.x ra)
  have hbdi : (wordBDI (s.x ra)).toNat = bdi := wordBDI_toNat (s.x ra)
  refine ⟨fun ha => ⟨fun hn hl => ⟨?ld, ?st⟩, fun hn hl => ⟨?dld, ?dst⟩⟩, ?basebd, ?rcs, ?vecrd⟩
  case ld => exact fun hp => execLd_absent rd hn hp hl ha
  case st => exact fun hp => storeAt_absent (ws := [s.x rb]) hn hp hl ha
  case dld => exact fun hp hrd => execDld_absent hrd hn hp hl ha
  case dst => exact fun hp hrb => (if_pos (groupOK_iff.2 hrb)).trans (storeAt_absent hn hp hl ha)
  case basebd =>
    intro hn hv hl ha
    have h := execBasebd_absent (s := s) (ra := ra) rb k hn (invalidLBDI_false hv)
    rw [descriptorAddr, htable, hbdi] at h
    exact h hl ha
  case rcs =>
    intro hn hl ha
    rw [← hfp] at hl ha ⊢
    exact ⟨pushFrame_absent _ _ hn hl ha,
      fun hra => (if_pos (groupOK_iff.2 hra)).trans (pushFrame_absent _ _ hn hl ha),
      fun hrd => execRcspop_absent hrd hn hl ha⟩
  case vecrd => exact fun hn hl ha => execVecrd_absent rd hn hl ha

end Sys2Proof.Machine
end

section
/-! Command words: their fields as numbers, the opcode map, and decoding what was encoded (R80 to R87 of
30_encoding.md). -/

namespace Sys2Proof.Machine

/-! Words put together from placed fields, as numbers -/

/-- A field placed in low bits that are clear adds its number. -/
theorem or_place_toNat {n w m : Nat} {x : BitVec w} (hx : x.toNat = m) (v : BitVec n) (p : Nat) (h : p + n ≤ w)
    (hm : 2 ^ (n + p) ∣ m) : (x ||| place w v p).toNat = m + v.toNat * 2 ^ p := by
  have hv : v.toNat * 2 ^ p < 2 ^ (n + p) := by
    rw [Nat.pow_add]
    exact Nat.mul_lt_mul_of_pos_right v.isLt (Nat.two_pow_pos p)
  obtain ⟨q, rfl⟩ := hm
  rw [BitVec.toNat_or, place_toNat v p h, hx, Nat.two_pow_add_eq_or_of_lt hv]

/-- The number a command word is (R81). -/
theorem commandWord_toNat (op : BitVec 8) (rd ra rb : GrsAddr) (k : BitVec 7) : (commandWord op rd ra rb k).toNat =
    op.toNat * 2 ^ 28 + rd.toNat * 2 ^ 21 + ra.toNat * 2 ^ 14 + rb.toNat * 2 ^ 7 + k.toNat := by
  have hop := place_toNat (w := 36) op 28 (by omega)
  have hrd := or_place_toNat hop rd 21 (by omega) (by omega)
  have hra := or_place_toNat hrd ra 14 (by omega) (by omega)
  have hrb := or_place_toNat hra rb 7 (by omega) (by omega)
  have hk := or_place_toNat hrb k 0 (by omega) (by omega)
  rwa [Nat.pow_zero, Nat.mul_one] at hk

/-- Settles O2: each field is a quotient and a remainder of the word, and the placed fields add up. -/
theorem commandWordLayout : Obligations.CommandWordLayout := by
  refine ⟨fun cw => ⟨fOP_toNat cw, extract_toNat cw 21 7, extract_toNat cw 14 7, extract_toNat cw 7 7, ?_⟩,
    commandWord_toNat⟩
  rw [fK, extract_toNat, Nat.pow_zero, Nat.div_one]

/-! The opcode map (R86) -/

@[simp] theorem fBr_commandWord (op : BitVec 8) (rd ra rb : GrsAddr) (k : BitVec 7) :
    fBr (commandWord op rd ra rb k) = k.extractLsb' 0 5 := by rw [fBr_eq, fK_commandWord]

@[simp] theorem fKTop_commandWord (op : BitVec 8) (rd ra rb : GrsAddr) (k : BitVec 7) :
    fKTop (commandWord op rd ra rb k) = k.extractLsb' 5 2 := by rw [fKTop_eq, fK_commandWord]

@[simp] theorem fJ_commandWord (op : BitVec 8) (rd ra rb : GrsAddr) (k : BitVec 7) :
    fJ (commandWord op rd ra rb k) = k.extractLsb' 0 4 := by rw [fJ_eq, fK_commandWord]

@[simp] theorem fTag_commandWord (op : BitVec 8) (rd ra rb : GrsAddr) (k : BitVec 7) :
    fTag (commandWord op rd ra rb k) = k.extractLsb' 0 2 := by rw [fTag_eq, fK_commandWord]

@[simp] theorem fClass_commandWord (op : BitVec 8) (rd ra rb : GrsAddr) (k : BitVec 7) :
    fClass (commandWord op rd ra rb k) = k.extractLsb' 0 6 := by rw [fClass_eq, fK_commandWord]

@[simp] theorem fQw_commandWord (op : BitVec 8) (rd ra rb : GrsAddr) (k : BitVec 7) :
    fQw (commandWord op rd ra rb k) = k[4] := by
  rw [fQw_eq, fK_commandWord, BitVec.getLsbD_eq_getElem]

@[simp] theorem fLayout_commandWord (op : BitVec 8) (rd ra rb : GrsAddr) (k : BitVec 7) :
    fLayout (commandWord op rd ra rb k) = if k[0] then .exec24 else .std := by
  rw [fLayout_eq, fK_commandWord, BitVec.getLsbD_eq_getElem]

/-- A command word decodes to the command its operation code selects, once that command's fields are read back. -/
theorem decode_ok {op : BitVec 8} {rd ra rb : GrsAddr} {k : BitVec 7} {rest : List Word} {i j : Instr}
    (h : decodeOp op (commandWord op rd ra rb k) rest = .ok j) (hj : j = i) :
    decode (commandWord op rd ra rb k :: rest) = .ok i := by
  rw [decode_commandWord, h, hj]

/-- Settles O3: in each of the 67 parts the operation code selects the command, and its fields are read back. -/
theorem opcodeMap : Obligations.OpcodeMap := by
  intro rd ra rb k lit rest cmd br top j lay
  and_intros
  all_goals exact decode_ok rfl (by simp [br, top, j, lay])

/-! The K field taken apart (R85) -/

@[simp] theorem kBr_br (k : BrNum) : (kBr k).extractLsb' 0 5 = k := extract_place_self k 0 (by omega)

@[simp] theorem kIntent_br (intent : BitVec 2) (k : BrNum) : (kIntent intent k).extractLsb' 0 5 = k := by
  simp [kIntent, extract_or, extract_place_self, extract_place_above]

@[simp] theorem kIntent_intent (intent : BitVec 2) (k : BrNum) : (kIntent intent k).extractLsb' 5 2 = intent := by
  simp [kIntent, extract_or, extract_place_self, extract_place_below]

@[simp] theorem kField_j (j : BitVec 4) (qw : Bool) : (kField j qw).extractLsb' 0 4 = j := by
  simp [kField, extract_or, extract_place_self, extract_place_above]

@[simp] theorem kField_qw (j : BitVec 4) (qw : Bool) : (kField j qw)[4] = qw := by
  simp [kField, getElem_place]

@[simp] theorem kKind_kind (kind : BitVec 2) (n : BitVec 4) : (kKind kind n).extractLsb' 5 2 = kind := by
  simp [kKind, extract_or, extract_place_self, extract_place_below]

@[simp] theorem kKind_n (kind : BitVec 2) (n : BitVec 4) : (kKind kind n).extractLsb' 0 4 = n := by
  simp [kKind, extract_or, extract_place_self, extract_place_above]

@[simp] theorem kLayout_layout (lay : XLayout) : (if (kLayout lay)[0] then .exec24 else .std) = lay := by
  cases lay <;> rfl

@[simp] theorem kTag_tag (tag : BitVec 2) : (kTag tag).extractLsb' 0 2 = tag := extract_place_self tag 0 (by omega)

@[simp] theorem kClass_class (c : BitVec 6) : (kClass c).extractLsb' 0 6 = c := extract_place_self c 0 (by omega)

/-- Settles O1: every command is one command word, LDI's with the literal after it, and its fields are read back; in the
second group so are the parts of K. -/
theorem decodeEncodeAgree : Obligations.DecodeEncodeAgree := by
  intro i rest
  cases i with
  | add | sub | neg | dadd | dsub | dneg | mul | muls | div | divs | cmp | dcmp | and | or | xor | dand | dor | dxor
  | lsc | rsc | lsl | rsl | lsa | rsa | dlsc | drsc | dlsl | drsl | dlsa | drsa | exts | dexts | packa | unpka | packf
  | unpkf | mov | ldi | rddr | wrdr | rdpar | wrpar | rdkey | wrkey | rdstat | updf | ea | disp | rcschk | rcswr
  | rcspop => exact decode_ok rfl (by simp only [fRD_commandWord, fRA_commandWord, fRB_commandWord, fK_commandWord])
  | fldx | fldi | xinc | xdec | grsa | xlt | xltn | ld | st | dld | dst | ldbr | stbr | basebd | rcswrs | vecrd =>
    exact decode_ok rfl (by simp)

/-- Settles O4, by running the decoder. -/
theorem decodedWords : Obligations.DecodedWords := ⟨by decide, by decide, by decide, by decide, by decide⟩

/-! Operation codes outside the map (R87) -/

/-- The operation codes of R86. -/
def definedOps : List Nat :=
  [0x01, 0x02, 0x03, 0x04, 0x05, 0x06, 0x07, 0x08, 0x09, 0x0A, 0x0B, 0x0C, 0x10, 0x11, 0x12, 0x14, 0x15, 0x16, 0x20,
    0x21, 0x22, 0x23, 0x24, 0x25, 0x28, 0x29, 0x2A, 0x2B, 0x2C, 0x2D, 0x30, 0x31, 0x32, 0x33, 0x34, 0x35, 0x36, 0x37,
    0x40, 0x41, 0x42, 0x43, 0x44, 0x45, 0x46, 0x47, 0x48, 0x49, 0x4A, 0x4B, 0x4C, 0x50, 0x51, 0x52, 0x53, 0x54, 0x55,
    0x56, 0x57, 0x58, 0x59, 0x60, 0x61, 0x62, 0x63, 0x64, 0x65]

/-- The last arm of the decoder is reached exactly past all the others. -/
theorem decodeOp_undefined {op : BitVec 8} (h : op.toNat ∉ definedOps) (cw : Word) (rest : List Word) :
    decodeOp op cw rest = .error (.undefinedOp op) := by
  unfold decodeOp
  split
  case h_68 => rfl
  all_goals
    next hop => exact absurd (by rw [hop]; decide) h

theorem step_of_undefinedOp {s : State} {op : BitVec 8} (h : decode s.pending = .error (.undefinedOp op)) :
    step s = badCommand s := by
  rw [step, stepOn, h]

theorem step_of_literalMissing {s : State} (h : decode s.pending = .error .literalMissing) : step s = badCommand s := by
  rw [step, stepOn, h]

theorem badCommand_of_getElem? {s : State} {cw : Word} (h : s.cmds[s.cp]? = some cw) :
    badCommand s = .fault (.badCommand cw) := by
  rw [badCommand, State.command, List.getD_eq_getElem?_getD, h]
  rfl

/-- Settles O5: the decoder answers that the operation code is undefined, and the step makes it `BadCommand`. -/
theorem undefinedOpIsBadCommand : Obligations.UndefinedOpIsBadCommand := by
  intro s cw hcw hop
  obtain ⟨rest, hp⟩ := pending_of_getElem? hcw
  have hd : decode s.pending = .error (.undefinedOp (fOP cw)) := by
    rw [hp, decode_cons, decodeOp_undefined (by rwa [fOP_toNat])]
  exact ⟨(step_of_undefinedOp hd).trans (badCommand_of_getElem? hcw), rfl⟩

/-! LDI's literal (R82) -/

theorem decode_ldi {cw : Word} (h : cw.toNat / 2 ^ 28 = 0x41) (lit : Word) (rest : List Word) :
    decode (cw :: lit :: rest) = .ok (.ldi (fRD cw) lit) := by
  have hop : fOP cw = 0x41 := BitVec.eq_of_toNat_eq ((fOP_toNat cw).trans h)
  rw [decode_cons, hop]
  rfl

theorem decode_ldi_last {cw : Word} (h : cw.toNat / 2 ^ 28 = 0x41) : decode [cw] = .error .literalMissing := by
  have hop : fOP cw = 0x41 := BitVec.eq_of_toNat_eq ((fOP_toNat cw).trans h)
  rw [decode_cons, hop]
  rfl

/-- Settles O7, by whether a word follows the command word. -/
theorem ldiTakesLiteral : Obligations.LdiTakesLiteral := by
  intro s cw hcw hop
  obtain ⟨hlt, hget⟩ := List.getElem?_eq_some_iff.1 hcw
  have hp : s.pending = cw :: s.cmds.drop (s.cp + 1) := by rw [State.pending, List.drop_eq_getElem_cons hlt, hget]
  refine ⟨fun hlen => ?last, fun lit hlit => ?literal⟩
  case last =>
    have hd : decode s.pending = .error .literalMissing := by
      rw [hp, List.drop_eq_nil_of_le hlen.le, decode_ldi_last hop]
    exact (step_of_literalMissing hd).trans (badCommand_of_getElem? hcw)
  case literal =>
    obtain ⟨hlt', hget'⟩ := List.getElem?_eq_some_iff.1 hlit
    have hd : decode s.pending = .ok (.ldi (fRD cw) lit) := by
      rw [hp, List.drop_eq_getElem_cons hlt', hget', decode_ldi hop]
    obtain ⟨⟨hkept, -⟩, hwritten⟩ := framed_setX s (fRD cw) lit
    exact ⟨(s.setX (fRD cw) lit).advance 2, step_of_decode hd, x_setX_self s _ _, hkept, hwritten, rfl⟩

end Sys2Proof.Machine
end

section
/-! A legal command is `BadCommand` in one case only (R84, R85, R254, R332). -/

namespace Sys2Proof.Machine

/-- The outcome is not `BadCommand`. -/
def NotBadCommand (r : Result) : Prop := ∀ cw, r ≠ .fault (.badCommand cw)

/-! Legal operands -/

/-- Every designator but U and XU names a field (R181). -/
theorem fieldOf_isSome {j : BitVec 4} (qw : Bool) (h : j.toNat < 14) : (fieldOf j qw).isSome = true := by
  revert j qw
  decide

/-- A legal intent, and the permission bit it needs (R85, R246). -/
theorem intentOf_legal {intent : BitVec 2} (h : intent ≠ 3) : ∃ it, intentOf intent = some it ∧
    ∀ p, permOK p it = if intent = 2 then p.write else p.read := by
  have hcases : ∀ intent : BitVec 2, intent ≠ 3 → intent = 0 ∨ intent = 1 ∨ intent = 2 := by decide
  rcases hcases intent h with rfl | rfl | rfl
  · exact ⟨.fetch, rfl, fun _ => rfl⟩
  · exact ⟨.read, rfl, fun _ => rfl⟩
  · exact ⟨.write, rfl, fun _ => rfl⟩

section Legal

variable {s : State}

theorem notBad_done (t : State) : NotBadCommand (done t) := nofun

theorem notBad_refuse (r : Refusal) : NotBadCommand (refuse r) := nofun

/-- A command that passes the check of its operands ends as it ends after the check. -/
theorem notBad_checked {c : Prop} [Decidable c] {r : Result} (hc : c) (h : NotBadCommand r) :
    NotBadCommand (if c then r else badCommand s) := by rwa [if_pos hc]

/-- The checks of a translation raise reference violations only (R249). -/
theorem translate_error {k : BrNum} {rel n : Nat} {intent : Intent} {f : Fault}
    (h : translate s k rel n intent = .error f) : ∃ kind fetch addr, f = .refViol kind fetch k addr := by
  unfold translate at h
  dsimp only at h
  split at h
  · exact ⟨_, _, _, (Except.error.inj h).symm⟩
  · split at h
    · exact ⟨_, _, _, (Except.error.inj h).symm⟩
    · cases h

theorem notBad_translate {k : BrNum} {rel n : Nat} {intent : Intent} {f : Fault}
    (h : translate s k rel n intent = .error f) : NotBadCommand (raise f) := by
  obtain ⟨_, _, _, rfl⟩ := translate_error h
  nofun

theorem notBad_translateInto (rd : GrsAddr) (k : BrNum) (rel n : Nat) (intent : Intent) :
    NotBadCommand (translateInto rd k rel n intent s) := by
  unfold translateInto
  split
  · next h => exact notBad_translate h
  · exact notBad_done _

theorem notBad_storeAt (k : BrNum) (rel : Nat) (ws : List Word) : NotBadCommand (storeAt k rel ws s) := by
  unfold storeAt
  split
  · next h => exact notBad_translate h
  · split
    · exact notBad_refuse _
    · exact notBad_done _

theorem notBad_pushFrame (f0 f1 : Word) : NotBadCommand (pushFrame f0 f1 s) := by
  unfold pushFrame
  dsimp only
  split
  · nofun
  · split
    · exact notBad_refuse _
    · exact notBad_done _

theorem notBad_divInto (rd : GrsAddr) (out : Option DivOut) : NotBadCommand (divInto rd out s) := by
  cases out with
  | none => nofun
  | some o => exact notBad_done _

theorem notBad_ld (rd ra : GrsAddr) (k : BrNum) : NotBadCommand (execLd rd ra k s) := by
  unfold execLd
  split
  · next h => exact notBad_translate h
  · split
    · exact notBad_refuse _
    · exact notBad_done _

theorem notBad_dld {rd : GrsAddr} (ra : GrsAddr) (k : BrNum) (h : groupOK rd 2 = true) :
    NotBadCommand (execDld rd ra k s) := by
  refine notBad_checked h ?_
  split
  · next h => exact notBad_translate h
  · split
    · exact notBad_refuse _
    · exact notBad_done _

theorem notBad_basebd (ra rb : GrsAddr) (k : BrNum) : NotBadCommand (execBasebd ra rb k s) := by
  have hf (kind l bdi) : NotBadCommand (raise (addressingFault s kind l bdi)) := by
    unfold addressingFault
    split <;> nofun
  unfold execBasebd
  dsimp only
  split
  · exact hf _ _ _
  · split
    · exact hf _ _ _
    · split
      · exact notBad_refuse _
      · split
        · exact hf _ _ _
        · exact notBad_done _

theorem notBad_disp {rd : GrsAddr} (ra : GrsAddr) (h : groupOK rd 2 = true) : NotBadCommand (execDisp rd ra s) := by
  refine notBad_checked h ?_
  split
  · nofun
  · exact notBad_done _

/-- A push check fails with an overflow only (R276). -/
theorem pushCheck_error {f : Fault} (h : pushCheck s = .error f) : ∃ fp, f = .rcsFault .overflow fp := by
  unfold pushCheck at h
  dsimp only at h
  split at h
  · exact ⟨_, (Except.error.inj h).symm⟩
  · cases h

/-- A pop check fails with an underflow or with the limits violation of the stack's bank (R278). -/
theorem popCheck_error {f : Fault} (h : popCheck s = .error f) :
    (∃ fp, f = .rcsFault .underflow fp) ∨ ∃ fp, f = limitsViolation false rcsBr fp := by
  unfold popCheck at h
  dsimp only at h
  split at h
  · exact .inl ⟨_, (Except.error.inj h).symm⟩
  · split at h
    · exact .inr ⟨_, (Except.error.inj h).symm⟩
    · cases h

theorem notBad_rcschk (rd : GrsAddr) : NotBadCommand (execRcschk rd s) := by
  unfold execRcschk
  split
  · next hf =>
    obtain ⟨_, rfl⟩ := pushCheck_error hf
    nofun
  · exact notBad_done _

theorem notBad_rcspop {rd : GrsAddr} (h : groupOK rd 2 = true) : NotBadCommand (execRcspop rd s) := by
  refine notBad_checked h ?_
  split
  · next hf => obtain ⟨_, rfl⟩ | ⟨_, rfl⟩ := popCheck_error hf <;> nofun
  · split
    · exact notBad_refuse _
    · exact notBad_done _

theorem notBad_vecrd (rd : GrsAddr) (c : BitVec 6) : NotBadCommand (execVecrd rd c s) := by
  unfold execVecrd
  split
  · nofun
  · split
    · exact notBad_refuse _
    · exact notBad_done _

/-- Only U and XU have no insertion (R183). -/
theorem notBad_fldi (rd ra rb : GrsAddr) {j : BitVec 4} (qw : Bool) (hj : j.toNat < 14) :
    NotBadCommand (execFldi rd ra rb j qw s) := by
  obtain ⟨f, hf⟩ := Option.isSome_iff_exists.1 (fieldOf_isSome qw hj)
  rw [execFldi, insertField, hf]
  exact notBad_done _

/-- Only kind 3 resolves to no register (R312). -/
theorem notBad_grsa (rd : GrsAddr) {kind : BitVec 2} (n : BitVec 4) (hk : kind ≠ 3) :
    NotBadCommand (execGrsa rd kind n s) := by
  have hkinds : ∀ kind : BitVec 2, kind ≠ 3 → kind = 0 ∨ kind = 1 ∨ kind = 2 := by decide
  rcases hkinds kind hk with rfl | rfl | rfl <;> exact notBad_done _

theorem notBad_xlt {rd : GrsAddr} (ra : GrsAddr) (k : BrNum) {intent : BitVec 2} (hi : intent ≠ 3)
    (hrd : groupOK rd 2 = true) : NotBadCommand (execXlt rd ra k intent s) := by
  obtain ⟨it, hit, -⟩ := intentOf_legal hi
  rw [execXlt, hit]
  exact notBad_checked hrd (notBad_translateInto _ _ _ _ _)

theorem notBad_xltn {rd rb : GrsAddr} (ra : GrsAddr) (k : BrNum) {intent : BitVec 2} (hi : intent ≠ 3)
    (hrd : groupOK rd 2 = true) (hrb : s.x rb ≠ 0) : NotBadCommand (execXltn rd ra rb k intent s) := by
  obtain ⟨it, hit, -⟩ := intentOf_legal hi
  rw [execXltn, hit]
  refine notBad_checked ?_ (notBad_translateInto _ _ _ _ _)
  rw [hrd, Bool.true_and]
  exact decide_eq_true (BitVec.toNat_ne.1 hrb)

end Legal

/-- A legal command that is no XLTN with count 0 is not `BadCommand`. -/
theorem exec_legal {i : Instr} {s : State} (hw : i.wellFormed = true)
    (hx : ∀ rd ra rb k n, i = .xltn rd ra rb k n → s.x rb ≠ 0) : NotBadCommand (exec i s) := by
  cases i with
  | add | sub | neg | muls | cmp | and | or | xor | lsc | rsc | lsl | rsl | lsa | rsa | fldx | mov | ldi | rddr | wrdr
  | rdpar | wrpar | rdkey | wrkey | rdstat | updf | xinc | xdec => exact notBad_done _
  | dadd | dsub | dneg | mul | dcmp | dand | dor | dxor | dlsc | drsc | dlsl | drsl | dlsa | drsa | exts | dexts | packa
  | unpka | packf | unpkf | ldbr | stbr | ea => exact notBad_checked hw (notBad_done _)
  | div | divs => exact notBad_checked hw (notBad_divInto _ _)
  | fldi => exact notBad_fldi _ _ _ _ (of_decide_eq_true hw)
  | grsa => exact notBad_grsa _ _ (of_decide_eq_true hw)
  | xlt =>
    obtain ⟨hi, hrd⟩ := Bool.and_eq_true_iff.1 hw
    exact notBad_xlt _ _ (of_decide_eq_true hi) hrd
  | xltn =>
    obtain ⟨hi, hrd⟩ := Bool.and_eq_true_iff.1 hw
    exact notBad_xltn _ _ (of_decide_eq_true hi) hrd (hx _ _ _ _ _ rfl)
  | ld => exact notBad_ld _ _ _
  | st => exact notBad_storeAt _ _ _
  | dld => exact notBad_dld _ _ hw
  | dst => exact notBad_checked hw (notBad_storeAt _ _ _)
  | basebd => exact notBad_basebd _ _ _
  | disp => exact notBad_disp _ hw
  | rcschk => exact notBad_rcschk _
  | rcswr => exact notBad_checked hw (notBad_pushFrame _ _)
  | rcswrs => exact notBad_pushFrame _ _
  | rcspop => exact notBad_rcspop hw
  | vecrd => exact notBad_vecrd _ _

/-- XLTN with a count of 0 is `BadCommand`, legal or not (R254). -/
theorem exec_xltn_zero {s : State} {rb : GrsAddr} (rd ra : GrsAddr) (k : BrNum) (intent : BitVec 2) (h : s.x rb = 0) :
    exec (.xltn rd ra rb k intent) s = badCommand s := by
  change execXltn rd ra rb k intent s = _
  unfold execXltn
  split
  · rfl
  · rw [h]
    exact if_neg (by simp)

theorem badCommand_eq_iff {s : State} {cw : Word} : badCommand s = .fault (.badCommand cw) ↔ cw = s.command := by
  rw [badCommand, raise, Host.Outcome.fault.injEq, Fault.badCommand.injEq, eq_comm]

/-- Settles O6: the commands named end in `BadCommand`, and the others do not. -/
theorem badCommandExactly : Obligations.BadCommandExactly := by
  intro i s cw
  constructor
  · intro h
    have hbad : i.wellFormed = false ∨ ∃ rd ra rb k n, i = .xltn rd ra rb k n ∧ s.x rb = 0 := by
      by_contra hno
      obtain ⟨hw, hx⟩ := not_or.1 hno
      refine exec_legal (by simpa using hw) (fun rd ra rb k n hi h0 => ?_) cw h
      exact hx ⟨rd, ra, rb, k, n, hi, h0⟩
    refine ⟨?_, hbad⟩
    rcases hbad with hw | ⟨rd, ra, rb, k, n, rfl, h0⟩
    · exact badCommand_eq_iff.1 ((exec_illegal hw).symm.trans h)
    · exact badCommand_eq_iff.1 ((exec_xltn_zero rd ra k n h0).symm.trans h)
  · rintro ⟨hcw, hw | ⟨rd, ra, rb, k, n, rfl, h0⟩⟩
    · exact (exec_illegal hw).trans (badCommand_eq_iff.2 hcw)
    · exact (exec_xltn_zero rd ra k n h0).trans (badCommand_eq_iff.2 hcw)

end Sys2Proof.Machine
end

section
/-! FLDI: insertion of a partial-word field (R92, R183, R193). -/

namespace Sys2Proof.Machine

/-- The field of a legal designator is the entry of the table of R92. -/
theorem fieldOf_eq_partialFields {j : BitVec 4} (qw : Bool) (h : j.toNat < 14) :
    fieldOf j qw = (partialFields qw)[j.toNat]?.map fun p => ⟨p.1, p.2.1, p.2.2⟩ := by
  revert j qw
  decide

theorem getLsbD_fieldMask (f : PartialField) {k : Nat} (hk : k < 36) :
    (fieldMask f).getLsbD k = decide (f.low ≤ k ∧ k < f.low + f.len) := by
  rw [fieldMask, BitVec.getLsbD_shiftLeft, BitVec.getLsbD_setWidth, BitVec.getLsbD_allOnes]
  by_cases hlow : f.low ≤ k
  · have h1 : k - f.low < 36 := by omega
    have h2 : k - f.low < f.len ↔ k < f.low + f.len := by omega
    simp [hk, hlow, h1, h2]
  · simp [hlow, Nat.lt_of_not_le hlow]

/-- Under the mask of a field stand the low bits of the one word, elsewhere those of the other. -/
theorem getLsbD_inserted (f : PartialField) (w v : Word) {k : Nat} (hk : k < 36) :
    ((w &&& ~~~(fieldMask f)) ||| ((v <<< f.low) &&& fieldMask f)).getLsbD k =
      if f.low ≤ k ∧ k < f.low + f.len then v.getLsbD (k - f.low) else w.getLsbD k := by
  rw [BitVec.getLsbD_or, BitVec.getLsbD_and, BitVec.getLsbD_and, BitVec.getLsbD_not, BitVec.getLsbD_shiftLeft,
    getLsbD_fieldMask f hk]
  split
  · next h => simp [h, hk]
  · next h => simp [h, hk]

/-- Settles O32: the two sides of the field's mask for a designator that names a field; U and XU are illegal. -/
theorem fieldInsertResult : Obligations.FieldInsertResult := by
  intro s rd ra rb j qw low len signed hfield
  refine ⟨fun hj => ?_, fun hj => ?_⟩
  · have hf : fieldOf j qw = some ⟨low, len, signed⟩ := by rw [fieldOf_eq_partialFields qw hj, hfield]; rfl
    refine setsBits_setX (v := (s.x rb &&& ~~~(fieldMask ⟨low, len, signed⟩)) |||
      ((s.x ra <<< low) &&& fieldMask ⟨low, len, signed⟩)) ?_ fun k hk => getLsbD_inserted ⟨low, len, signed⟩ _ _ hk
    change execFldi rd ra rb j qw s = _
    rw [execFldi, insertField, hf]
    rfl
  · exact exec_illegal (i := .fldi rd ra rb j qw) (decide_eq_false (Nat.not_lt.2 hj))

end Sys2Proof.Machine
end

section
/-! Translation and base registers: XLT, XLTN, LDBR, STBR and BASEBD (R95 to R105, R220 to R254, R259 to R261). -/

namespace Sys2Proof.Machine

/-- `upi·2^18 + seg` (R101). -/
theorem absWordA_eq (a : AbsAddr) : absWordA a = BitVec.ofNat 36 (a.upi.toNat * 2 ^ 18 + a.seg.toNat) :=
  (BitVec.toNat_eq_nat.1 (place_or_toNat a.upi a.seg (by omega))).2

/-! Translation (R245 to R254) -/

/-- A granted translation puts the absolute address in the pair at `rd`. -/
theorem completes_translateInto {i : Instr} {s : State} {rd : GrsAddr} {k : BrNum} {rel n : Nat} {intent : Intent}
    (h : exec i s = translateInto rd k rel n intent s) (hn : 0 < n) (hl : inLimits (s.b k) rel n)
    (hp : permOK (selectedPerms (s.b k) s.key) intent = true) :
    completesTo i s [(rd, BitVec.ofNat 36 ((s.b k).base.upi.toNat * 2 ^ 18 + (s.b k).base.seg.toNat)),
      (grsPlus rd 1, BitVec.ofNat 36 ((s.b k).base.off + rel))] s.stat := by
  have he : exec i s = .next (s.setPair rd
      (dw (absWordA (addrPlus (s.b k).base rel)) (absWordB (addrPlus (s.b k).base rel)))) := by
    rw [h, translateInto, translate_granted intent hn hl hp]
    rfl
  have hc := completesTo_setPair (st := s.stat) he
  rwa [hi_dw, lo_dw, absWordA_eq] at hc

/-- Settles O40: with a legal intent and pair both forms come to the translation, XLTN where its count is not 0. -/
theorem translateResult : Obligations.TranslateResult := by
  intro s rd ra rb k intent hi hrd b rel p out hp
  obtain ⟨it, hit, hperm⟩ := intentOf_legal hi
  have hgranted : permOK (selectedPerms (s.b k) s.key) it = true := (hperm _).trans hp
  have hgroup : groupOK rd 2 = true := groupOK_iff.2 hrd
  refine ⟨fun hl => ?xlt, fun hcount hl => ?xltn⟩
  case xlt =>
    refine completes_translateInto (intent := it) ?_ Nat.one_pos hl hgranted
    change execXlt rd ra k intent s = _
    rw [execXlt, hit]
    exact if_pos hgroup
  case xltn =>
    have hn : (s.x rb).toNat ≠ 0 := BitVec.toNat_ne.1 hcount
    refine completes_translateInto (intent := it) ?_ (Nat.pos_of_ne_zero hn) hl hgranted
    change execXltn rd ra rb k intent s = _
    rw [execXltn, hit]
    exact if_pos (by rw [hgroup, decide_eq_true hn]; rfl)

/-! Packets (R102, R103, R231, R232) -/

/-- The lock of a first word: ring in bits 17 and 16, domain in bits 15 to 0 (R96). -/
theorem accessInfo_extract (w : Word) :
    accessInfo (w.extractLsb' 0 18) = ⟨w.extractLsb' 16 2, w.extractLsb' 0 16⟩ := by
  rw [accessInfo, extract_extract w 18 16 2 (by omega), extract_extract w 18 0 16 (by omega)]

/-- The lower limit of a limits word (R98, R221). -/
theorem normLower_extract (large : Bool) (w : Word) :
    normLower large (w.extractLsb' 27 9) = w.toNat / 2 ^ 27 * (if large then 32768 else 512) := by
  have := w.isLt
  have h : w.toNat / 2 ^ 27 % 2 ^ 9 = w.toNat / 2 ^ 27 := by omega
  rw [normLower, extract_toNat, h]
  rfl

/-- The upper limit of a limits word (R98, R221). -/
theorem normUpper_extract (large : Bool) (w : Word) :
    normUpper large (w.extractLsb' 0 27) = if large then w.toNat % 2 ^ 27 * 64 + 63 else w.toNat % 2 ^ 27 := by
  rw [normUpper, extract_toNat, Nat.pow_zero, Nat.div_one]

theorem permBits_toNat (p : AccessPerms) :
    (permBits p).toNat = p.enter.toNat * 4 + p.read.toNat * 2 + p.write.toNat := by
  obtain ⟨e, r, w⟩ := p
  revert e r w
  decide

/-- The first word of a packet as a number (R102). -/
theorem accessWord_eq (gap sap : AccessPerms) (lock : AccessInfo) (large : Bool) : accessWord gap sap lock large =
    BitVec.ofNat 36 (gap.enter.toNat * 2 ^ 35 + gap.read.toNat * 2 ^ 34 + gap.write.toNat * 2 ^ 33 +
      sap.enter.toNat * 2 ^ 32 + sap.read.toNat * 2 ^ 31 + sap.write.toNat * 2 ^ 30 + large.toNat * 2 ^ 22 +
      lock.ring.toNat * 2 ^ 16 + lock.domain.toNat) := by
  have hgap := place_toNat (w := 36) (permBits gap) 33 (by omega)
  have hsap := or_place_toNat hgap (permBits sap) 30 (by omega) (by omega)
  have hlarge := or_place_toNat hsap (BitVec.ofBool large) 22 (by omega) (by omega)
  have hring := or_place_toNat hlarge lock.ring 16 (by omega) (by omega)
  have hdomain := or_place_toNat hring lock.domain 0 (by omega) (by omega)
  rw [permBits_toNat, permBits_toNat, BitVec.toNat_ofBool] at hdomain
  refine (BitVec.toNat_eq_nat.1 (hdomain.trans ?_)).2
  ring

theorem limitsWord_eq (ll : BitVec 9) (ul : BitVec 27) :
    limitsWord ll ul = BitVec.ofNat 36 (ll.toNat * 2 ^ 27 + ul.toNat) :=
  (BitVec.toNat_eq_nat.1 (place_or_toNat ll ul (by omega))).2

/-- The base register a packet describes (R231). -/
theorem decodePacket_eq (p0 p1 p2 p3 : Word) :
    let large := p0.getLsbD 22
    let lower := p1.toNat / 2 ^ 27 * (if large then 32768 else 512)
    let upper := if large then p1.toNat % 2 ^ 27 * 64 + 63 else p1.toNat % 2 ^ 27
    decodePacket p0 p1 p2 p3 = (if p0.getLsbD 20 = true ∨ upper < lower then BaseReg.canonicalVoid
      else ⟨false, ⟨p2.extractLsb' 18 18, p2.extractLsb' 0 18, p3.toNat⟩, large, lower, upper,
        ⟨p0.extractLsb' 16 2, p0.extractLsb' 0 16⟩, ⟨p0.getLsbD 35, p0.getLsbD 34, p0.getLsbD 33⟩,
        ⟨p0.getLsbD 32, p0.getLsbD 31, p0.getLsbD 30⟩⟩) := by
  simp only [decodePacket, normLower_extract, normUpper_extract, accessInfo_extract]
  rfl

/-- A base register that is not void has its access word, limits and address in its packet (R232). -/
theorem encodePacket_based {b : BaseReg} (h : b.void = false) : encodePacket b =
    [BitVec.ofNat 36 (b.gap.enter.toNat * 2 ^ 35 + b.gap.read.toNat * 2 ^ 34 + b.gap.write.toNat * 2 ^ 33 +
        b.sap.enter.toNat * 2 ^ 32 + b.sap.read.toNat * 2 ^ 31 + b.sap.write.toNat * 2 ^ 30 +
        b.large.toNat * 2 ^ 22 + b.lock.ring.toNat * 2 ^ 16 + b.lock.domain.toNat),
      BitVec.ofNat 36 ((b.lower / (if b.large then 32768 else 512)) % 2 ^ 9 * 2 ^ 27 +
        (if b.large then b.upper / 64 else b.upper) % 2 ^ 27),
      BitVec.ofNat 36 (b.base.upi.toNat * 2 ^ 18 + b.base.seg.toNat), BitVec.ofNat 36 b.base.off] := by
  rw [encodePacket, h, accessWord_eq, limitsWord_eq, absWordA_eq, BitVec.toNat_ofNat, BitVec.toNat_ofNat]
  rfl

theorem encodePacket_void {b : BaseReg} (h : b.void = true) : encodePacket b = [0o000004_000000, 0, 0, 0] := by
  rw [encodePacket, h]
  rfl

/-! Frames of a base-register write and of a group write -/

/-- A command that reads `n` storage words and writes one base register. -/
theorem completes_setB {i : Instr} {s : State} {n : Nat} {k : BrNum} {v : BaseReg}
    (h : exec i s = .next ((s.drew n).setB k v)) :
    ∃ t, exec i s = .next t ∧ t.b k = v ∧ grsKept [] s t ∧ specialsKept s t ∧ brKept [k] s t ∧ storageKept [] s t ∧
      t.stat = s.stat ∧ samePorts s t ∧ t.draws = s.draws + n := by
  refine ⟨_, h, b_setB_self _ k v, fun _ _ => ⟨rfl, rfl⟩, ⟨rfl, rfl, rfl, rfl, rfl, rfl⟩, fun q hq => ?_,
    fun _ _ => rfl, rfl, ⟨rfl, rfl, rfl⟩, rfl⟩
  exact b_setB_ne _ k q v fun e => hq (List.mem_singleton.2 e)

@[simp] theorem grsPlus_zero (r : GrsAddr) : grsPlus r 0 = r := by simp [grsPlus]

theorem grsPlus_grsPlus (r : GrsAddr) (i j : Nat) : grsPlus (grsPlus r i) j = grsPlus r (i + j) := by
  rw [grsPlus, grsPlus, grsPlus, BitVec.add_assoc, BitVec.ofNat_add]

/-- A group written after the registers of `ds`. -/
theorem framed_setGroup (ws : List Word) : ∀ {ds : List GrsAddr} {n : Nat} {s t : State} (r : GrsAddr),
    framed ds n s t → framed ((List.range ws.length).map (grsPlus r) ++ ds) n s (t.setGroup r ws) := by
  induction ws with
  | nil => exact fun _ h => h
  | cons w ws ih =>
    intro ds n s t r h
    refine framed_congr (ih (grsPlus r 1) (framed_setX_cons h r w)) fun q => ?_
    have hshift : (List.range ws.length).map (grsPlus (grsPlus r 1)) =
        (List.range ws.length).map (grsPlus r ∘ Nat.succ) :=
      List.map_congr_left fun i _ => by rw [grsPlus_grsPlus, Nat.add_comm]; rfl
    rw [hshift, List.length_cons, List.range_succ_eq_map, List.map_cons, List.map_map, grsPlus_zero]
    exact List.perm_middle.mem_iff

/-- A command that writes a group of registers. -/
theorem completesTo_setGroup {i : Instr} {s : State} {r : GrsAddr} {ws : List Word}
    (h : exec i s = .next (s.setGroup r ws)) (hr : r.toNat + ws.length ≤ 128) :
    completesTo i s (ws.mapIdx fun j w => (grsPlus r j, w)) s.stat := by
  obtain ⟨hvalues, -⟩ := setGroup_x ws s r hr
  refine ⟨_, h, fun p hp => ?_, setGroup_stat ws s r, framed_congr (framed_setGroup ws r (framed_refl s)) fun q => ?_⟩
  · obtain ⟨j, hj, rfl⟩ := List.mem_mapIdx.1 hp
    exact hvalues j hj
  · simp [List.mem_mapIdx]

/-- Settles O47: LDBR decodes the packet of its group, STBR encodes the packet of its base register. -/
theorem basePacketResult : Obligations.BasePacketResult := by
  refine ⟨fun s ra k hra => ?ldbr, fun s rd k hrd => ?stbr⟩
  case ldbr =>
    intro p0 p1 p2 large lower upper
    have h : exec (.ldbr ra k) s =
        .next ((s.drew 0).setB k (decodePacket p0 p1 p2 (s.x (grsPlus ra 3)))) := if_pos (groupOK_iff.2 hra)
    rw [decodePacket_eq] at h
    exact completes_setB h
  case stbr =>
    have h : exec (.stbr rd k) s = .next (s.setGroup rd (encodePacket (s.b k))) := if_pos (groupOK_iff.2 hrd)
    refine ⟨fun hv => ?_, fun hv => ?_⟩
    · rw [encodePacket_void hv] at h
      simpa using completesTo_setGroup h hrd
    · rw [encodePacket_based hv] at h
      simpa using completesTo_setGroup h hrd

/-! BASEBD (R105, R220, R230, R240, R261) -/

/-- The base register of a descriptor's bank, moved up by an offset (R220, R230). -/
theorem baseFromBD_decodeBD (w : Vector Word 8) (off : Nat) :
    let large := w[0].getLsbD 22
    let nL := w[1].toNat / 2 ^ 27 * (if large then 32768 else 512)
    let nU := if large then w[1].toNat % 2 ^ 27 * 64 + 63 else w[1].toNat % 2 ^ 27
    baseFromBD (decodeBD w) off = (if nU < off ∨ nU - off < nL - off then BaseReg.canonicalVoid
      else ⟨false, ⟨w[2].extractLsb' 18 18, w[2].extractLsb' 0 18, w[3].toNat + off⟩, large, nL - off, nU - off,
        ⟨w[0].extractLsb' 16 2, w[0].extractLsb' 0 16⟩, ⟨w[0].getLsbD 35, w[0].getLsbD 34, w[0].getLsbD 33⟩,
        ⟨w[0].getLsbD 32, w[0].getLsbD 31, w[0].getLsbD 30⟩⟩) := by
  simp only [baseFromBD, decodeBD, normLower_extract, normUpper_extract, accessInfo_extract]
  rfl

/-- BASEBD past its checks: the descriptor's words are read and its bank is based. -/
theorem execBasebd_present {s : State} {ra : GrsAddr} {a : AbsAddr} (rb : GrsAddr) (k : BrNum)
    (hv : invalidLBDI (wordL (s.x ra)) (wordBDI (s.x ra)) = false)
    (hl : inLimits (s.b (bdtBr (wordL (s.x ra)))) (8 * (wordBDI (s.x ra)).toNat) 8)
    (ha : descriptorAddr s (wordL (s.x ra)) (wordBDI (s.x ra)) = a) (hs : allPresent s a 8)
    (hg : (s.readWord 0 a).getLsbD 23 = false) :
    execBasebd ra rb k s = .next ((s.drew 8).setB k
      (baseFromBD (decodeBD (Vector.ofFn fun i => s.readWord i.val (addrPlus a i.val))) (s.x rb).toNat)) := by
  rw [execBasebd, hv, (limitsOK_iff (by omega)).2 hl, ha, memRead_present hs]
  change (if (decodeBD _).g = true then _ else _) = _
  exact if_neg (Bool.eq_false_iff.1 hg)

/-- Settles O50: the checks pass, and the base register is built from the words read. -/
theorem baseBankResult : Obligations.BaseBankResult := by
  intro s ra rb k l bdi table a w large nL nU off hv hl hs hg
  have htable : bdtBr (wordL (s.x ra)) = BitVec.ofNat 5 (16 + l) := bdtBr_wordL (s.x ra)
  have hbdi : (wordBDI (s.x ra)).toNat = bdi := wordBDI_toNat (s.x ra)
  have ha : descriptorAddr s (wordL (s.x ra)) (wordBDI (s.x ra)) = a := by rw [descriptorAddr, htable, hbdi]
  have h : exec (.basebd ra rb k) s = _ :=
    execBasebd_present rb k (invalidLBDI_false hv) (by rwa [htable, hbdi]) ha hs hg
  rw [baseFromBD_decodeBD] at h
  simp only [Vector.getElem_ofFn] at h
  exact completes_setB h

end Sys2Proof.Machine
end

section
/-! RCSWR and RCSWRS: the push of a frame (R104, R241, R277, R282, R283). -/

namespace Sys2Proof.Machine

/-- Word 0 of a synthesized frame (R31, R104). -/
theorem reentryWord_eq (par : Word) : reentryWord par =
    BitVec.ofNat 36 (par.toNat / 2 ^ 18 * 2 ^ 18 + (par.toNat % 2 ^ 18 + 1) % 2 ^ 18) := by
  have := par.isLt
  have hone : (1 : BitVec 18).toNat = 1 := rfl
  refine (BitVec.toNat_eq_nat.1 ((place_or_toNat _ _ (by omega)).trans ?_)).2
  rw [BitVec.toNat_add, parPC, extract_toNat, extract_toNat, Nat.pow_zero, Nat.div_one, hone]
  omega

/-- Word 1 of a synthesized frame (R104). -/
theorem stateWord_eq (tag : BitVec 2) (dr : Word) (key : BitVec 18) : stateWord tag dr key =
    BitVec.ofNat 36 (tag.toNat * 2 ^ 34 + dr.toNat / 2 ^ 18 % 2 ^ 6 * 2 ^ 24 + key.toNat) := by
  have htag := place_toNat (w := 36) tag 34 (by omega)
  have hdr := or_place_toNat htag (dr.extractLsb' 18 6) 24 (by omega) (by omega)
  have hkey := or_place_toNat hdr key 0 (by omega) (by omega)
  rw [extract_toNat, Nat.pow_zero, Nat.mul_one] at hkey
  exact (BitVec.toNat_eq_nat.1 hkey).2

theorem pushFrame_present {s : State} (f0 f1 : Word) (hl : inLimits (s.b rcsBr) (framePointer s) 2)
    (hs : allPresent s (addrPlus (s.b rcsBr).base (framePointer s)) 2) : pushFrame f0 f1 s =
      .next { s with mem := s.mem.writeWords (addrPlus (s.b rcsBr).base (framePointer s)) [f0, f1] } := by
  rw [pushFrame, (limitsOK_iff Nat.two_pos).2 hl, memWrite_present (ws := [f0, f1]) hs]
  rfl

theorem pushFrame_outside {s : State} (f0 f1 : Word) (hl : ¬inLimits (s.b rcsBr) (framePointer s) 2) :
    pushFrame f0 f1 s = .fault (limitsViolation false rcsBr (framePointer s)) := by
  rw [pushFrame, limitsOK_false Nat.two_pos hl]
  rfl

/-- Writing two words to storage changes these words and nothing else. -/
theorem onlyStorage_writeWords_two {s : State} (hwf : s.memInv = true) (a : AbsAddr) (v w : Word) :
    let t := { s with mem := s.mem.writeWords a [v, w] }
    t.mem.read a = v ∧ t.mem.read (addrPlus a 1) = w ∧ storageKept [a, addrPlus a 1] s t ∧ onlyStorage s t := by
  obtain ⟨h0, h1, hother⟩ := writeWords_two hwf a v w
  refine ⟨h0, h1, fun c hc => ?_, onlyStorage_mem s _⟩
  simp only [List.mem_cons, List.not_mem_nil, or_false, not_or] at hc
  exact hother c hc.1 hc.2

/-- Settles O55: within the limits both forms store their frame, outside both are the limits violation. -/
theorem pushFrameResult : Obligations.PushFrameResult := by
  intro s ra tag hwf fp a pushed f0 f1
  have hfp : framePointer s = fp := framePointer_eq s
  have hframe : exec (.rcswrs tag) s = pushFrame f0 f1 s :=
    congrArg₂ (pushFrame · · s) (reentryWord_eq s.par) (stateWord_eq tag s.dr s.key)
  have hpair (hra : ra.toNat + 2 ≤ 128) : exec (.rcswr ra) s = pushFrame (s.x ra) (s.x (grsPlus ra 1)) s :=
    if_pos (groupOK_iff.2 hra)
  refine ⟨fun hl hs => ?present, fun hl => ?outside⟩
  case present =>
    have hpush {i : Instr} {v w : Word} (h : exec i s = pushFrame v w s) : pushed i v w := by
      rw [pushFrame_present v w (by rwa [hfp]) (by rwa [hfp]), hfp] at h
      exact ⟨_, h, onlyStorage_writeWords_two hwf a v w⟩
    exact ⟨hpush hframe, fun hra => hpush (hpair hra)⟩
  case outside =>
    have hfault (v w : Word) : pushFrame v w s = .fault (limitsViolation false rcsBr fp) := by
      rw [pushFrame_outside v w (by rwa [hfp]), hfp]
    exact ⟨hframe.trans (hfault _ _), fun hra => (hpair hra).trans (hfault _ _)⟩

end Sys2Proof.Machine
end

section
/-! Ones'-complement numbers and their sum, at every width (R12, R111 to R114). -/

namespace Sys2Proof.Machine

section Numbers

variable {n : Nat}

/-! Patterns and values -/

theorem two_pow_eq_maxMag (hn : 0 < n) : (2 ^ n : Int) = 2 * maxMag n + 2 := by
  obtain ⟨m, rfl⟩ := Nat.exists_eq_succ_of_ne_zero hn.ne'
  rw [maxMag, Nat.succ_sub_one, pow_succ]
  omega

theorem maxMag_nonneg (n : Nat) : 0 ≤ maxMag n := Int.sub_nonneg_of_le (one_le_pow₀ (by omega))

theorem maxMag_toNat (n : Nat) : maxMag n = ((2 ^ (n - 1) - 1 : Nat) : Int) := by
  rw [Nat.cast_sub Nat.one_le_two_pow]
  simp [maxMag]

theorem toNat_le_maxMag (hn : 0 < n) (v : BitVec n) : (v.toNat : Int) ≤ 2 * maxMag n + 1 := by
  have hlt : (v.toNat : Int) < 2 ^ n := by exact_mod_cast v.isLt
  rw [two_pow_eq_maxMag hn] at hlt
  omega

theorem msb_iff_maxMag_lt (v : BitVec n) : v.msb = true ↔ maxMag n < v.toNat := by
  have hpos := Nat.two_pow_pos (n - 1)
  rw [BitVec.msb_eq_decide, decide_eq_true_eq, maxMag_toNat]
  omega

theorem val_of_msb_true (hn : 0 < n) {v : BitVec n} (h : v.msb = true) :
    val v = v.toNat - (2 * maxMag n + 1) := by
  have hp := two_pow_eq_maxMag hn
  have hlt := v.isLt
  rw [val, if_pos h, BitVec.toNat_not]
  zify [Nat.one_le_two_pow, Nat.le_sub_one_of_lt hlt]
  omega

theorem val_of_msb_false {v : BitVec n} (h : v.msb = false) : val v = v.toNat := if_neg (Bool.eq_false_iff.1 h)

/-- The two kinds of pattern: the lower half of the numbers is what it says, the upper half `2^N − 1` less. -/
theorem sign_cases (hn : 0 < n) (v : BitVec n) :
    (v.msb = false ∧ (v.toNat : Int) ≤ maxMag n ∧ val v = v.toNat) ∨
    (v.msb = true ∧ maxMag n < (v.toNat : Int) ∧ (v.toNat : Int) ≤ 2 * maxMag n + 1 ∧
      val v = v.toNat - (2 * maxMag n + 1)) := by
  have hmsb := msb_iff_maxMag_lt v
  cases h : v.msb with
  | false => exact .inl ⟨rfl, by simpa [h] using hmsb, val_of_msb_false h⟩
  | true => exact .inr ⟨rfl, hmsb.1 h, toNat_le_maxMag hn v, val_of_msb_true hn h⟩

theorem val_natAbs_le (hn : 0 < n) (v : BitVec n) : (val v).natAbs ≤ maxMag n := by
  rcases sign_cases hn v with ⟨-, _, _⟩ | ⟨-, _, _, _⟩ <;> omega

theorem negZero_toNat (hn : 0 < n) : ((negZero n).toNat : Int) = 2 * maxMag n + 1 := by
  have hp := two_pow_eq_maxMag hn
  rw [negZero, BitVec.toNat_allOnes, Nat.cast_sub Nat.one_le_two_pow]
  push_cast
  omega

theorem eq_zero_iff_toNat {v : BitVec n} : v = 0 ↔ (v.toNat : Int) = 0 := by
  rw [← BitVec.toNat_inj]
  simp

theorem eq_negZero_iff_toNat (hn : 0 < n) {v : BitVec n} : v = negZero n ↔ (v.toNat : Int) = 2 * maxMag n + 1 := by
  rw [← negZero_toNat hn, Nat.cast_inj, BitVec.toNat_inj]

/-- The values 0: the two zeros and nothing else (R12). -/
theorem val_eq_zero_iff (hn : 0 < n) {v : BitVec n} : val v = 0 ↔ v = 0 ∨ v = negZero n := by
  have := maxMag_nonneg n
  rw [eq_zero_iff_toNat, eq_negZero_iff_toNat hn]
  rcases sign_cases hn v with ⟨-, _, _⟩ | ⟨-, _, _, _⟩ <;> omega

theorem val_negZero (hn : 0 < n) : val (negZero n) = 0 := (val_eq_zero_iff hn).2 (.inr rfl)

/-! The pattern of an integer -/

/-- The pattern of an integer as a number, also past the magnitudes that fit. -/
theorem oc_toNat (hn : 0 < n) {i : Int} (hl : -(2 * maxMag n + 1) ≤ i) (hu : i ≤ 2 * maxMag n + 1) :
    ((oc n i).toNat : Int) = if 0 ≤ i then i else 2 * maxMag n + 1 + i := by
  have hp := two_pow_eq_maxMag hn
  rw [oc, BitVec.toNat_ofInt]
  push_cast
  rw [hp]
  split
  · rw [Int.emod_eq_of_lt (by omega) (by omega)]
    omega
  · rw [Int.emod_eq_of_lt (by omega) (by omega)]
    omega

/-- A pattern has the value it was made for, where that fits (R12). -/
theorem val_oc (hn : 0 < n) {i : Int} (h : (i.natAbs : Int) ≤ maxMag n) : val (oc n i) = i := by
  have ho := oc_toNat hn (i := i) (by omega) (by omega)
  split at ho <;> rcases sign_cases hn (oc n i) with ⟨-, _, _⟩ | ⟨-, _, _, _⟩ <;> omega

/-! The sum -/

/-- Where the sum of the values does not fit, the operands have one sign and the end-around carry comes to the pattern
of that sum (R111). -/
theorem endAround_eq_oc (hn : 0 < n) {a b : BitVec n} (h : maxMag n < ((val a + val b).natAbs : Int)) :
    BitVec.ofNat n (if a.toNat + b.toNat > 2 ^ n - 1 then a.toNat + b.toNat - (2 ^ n - 1) else a.toNat + b.toNat) =
      oc n (val a + val b) := by
  have hp : ((2 ^ n : Nat) : Int) = 2 * maxMag n + 2 := by rw [← two_pow_eq_maxMag hn]; norm_cast
  rw [← BitVec.toNat_inj, ← Nat.cast_inj (R := Int), BitVec.toNat_ofNat, Int.natCast_mod, hp]
  rcases sign_cases hn a with ⟨-, ha, hva⟩ | ⟨-, ha, ha', hva⟩ <;>
    rcases sign_cases hn b with ⟨-, hb, hvb⟩ | ⟨-, hb, hb', hvb⟩
  case inl.inl =>
    rw [oc_toNat hn (by omega) (by omega), if_neg (by omega), if_pos (by omega), Int.emod_eq_of_lt] <;> omega
  case inr.inr =>
    rw [oc_toNat hn (by omega) (by omega), if_pos (by omega), if_neg (by omega), Int.emod_eq_of_lt] <;> omega
  all_goals omega

theorem addN_negZero : addN (negZero n) (negZero n) = negZero n := if_pos ⟨rfl, rfl⟩

/-- The end-around-carry sum is the pattern of the sum of the values, also where that does not fit; −0 + −0 alone is
not (R111, R114). -/
theorem addN_eq_oc (hn : 0 < n) {a b : BitVec n} (h : ¬(a = negZero n ∧ b = negZero n)) :
    addN a b = oc n (val a + val b) := by
  rw [addN, if_neg h]
  split
  next hout =>
    have hbig : maxMag n < ((val a + val b).natAbs : Int) := of_decide_eq_true hout
    exact endAround_eq_oc hn hbig
  next => rfl

end Numbers
end Sys2Proof.Machine
end

section
/-! Overflow, carry and congruence of the ones'-complement add (R111 to R116, R134). -/

namespace Sys2Proof.Machine

section Sum

variable {n : Nat} (a b : BitVec n)

/-- The sum as a number, by the sign of the sum of the values. -/
theorem addN_toNat (hn : 0 < n) : ((addN a b).toNat : Int) =
    if a = negZero n ∧ b = negZero n then 2 * maxMag n + 1
    else if 0 ≤ val a + val b then val a + val b else 2 * maxMag n + 1 + (val a + val b) := by
  have ha := val_natAbs_le hn a
  have hb := val_natAbs_le hn b
  split
  next h => rw [h.1, h.2, addN_negZero, negZero_toNat hn]
  next h => rw [addN_eq_oc hn h, oc_toNat hn (by omega) (by omega)]

/-- The sign bit of a sum other than −0 + −0: set below zero, and the other way round where the sum does not fit. -/
theorem addN_msb_iff (hn : 0 < n) (h : ¬(a = negZero n ∧ b = negZero n)) : (addN a b).msb = true ↔
    maxMag n < val a + val b ∨ (val a + val b < 0 ∧ -maxMag n ≤ val a + val b) := by
  have ha := val_natAbs_le hn a
  have hb := val_natAbs_le hn b
  have hr := addN_toNat a b hn
  rw [if_neg h] at hr
  rw [msb_iff_maxMag_lt, hr]
  split <;> omega

/-- The overflow flag says that operands of one sign have a result of the other (R113). -/
theorem addOverflow_iff_msb (r : BitVec n) : addOverflow a b r = true ↔ a.msb = b.msb ∧ r.msb ≠ a.msb := by
  simp [addOverflow]

/-- The sum overflows exactly if the sum of the values does not fit (R113): operands of different sign always fit, and for
operands of one sign the result's sign bit tells. -/
theorem addOverflow_iff_natAbs (hn : 0 < n) :
    addOverflow a b (addN a b) = true ↔ 2 ^ (n - 1) - 1 < (val a + val b).natAbs := by
  have hM := maxMag_toNat n
  rw [addOverflow_iff_msb]
  by_cases hz : a = negZero n ∧ b = negZero n
  · rw [hz.1, hz.2, addN_negZero, val_negZero hn]
    simp
  · have hr := addN_msb_iff a b hn hz
    rw [eq_negZero_iff_toNat hn, eq_negZero_iff_toNat hn] at hz
    rw [ne_eq, Bool.eq_iff_iff (a := (addN a b).msb), hr]
    rcases sign_cases hn a with ⟨ha, _, _⟩ | ⟨ha, _, _, _⟩ <;>
      rcases sign_cases hn b with ⟨hb, _, _⟩ | ⟨hb, _, _, _⟩ <;>
      simp only [ha, hb, Bool.false_eq_true, Bool.true_eq_false, false_and, true_and, false_iff, iff_false, iff_true] <;>
      omega

/-- Where the sum of the values fits, the sum has it (R111). -/
theorem val_addN (hn : 0 < n) (h : (val a + val b).natAbs ≤ 2 ^ (n - 1) - 1) : val (addN a b) = val a + val b := by
  by_cases hz : a = negZero n ∧ b = negZero n
  · rw [hz.1, hz.2, addN_negZero, val_negZero hn]
    rfl
  · rw [addN_eq_oc hn hz]
    exact val_oc hn (by rw [maxMag_toNat]; exact_mod_cast h)

/-- −0 is the sum of −0 and −0 alone (R114). -/
theorem addN_eq_negZero_iff (hn : 0 < n) : addN a b = negZero n ↔ a = negZero n ∧ b = negZero n := by
  have ha := val_natAbs_le hn a
  have hb := val_natAbs_le hn b
  have hr := addN_toNat a b hn
  refine ⟨fun h => ?_, fun h => by rw [h.1, h.2, addN_negZero]⟩
  by_contra hz
  rw [h, if_neg hz, negZero_toNat hn] at hr
  split at hr <;> omega

/-- Every other sum of value 0 is +0 (R114). -/
theorem addN_eq_zero (hn : 0 < n) (h : val a + val b = 0) (hz : ¬(a = negZero n ∧ b = negZero n)) :
    addN a b = 0 := by
  rw [addN_eq_oc hn hz, h]
  simp [oc]

/-- The carry flag by the signs of the operands and of the result (R112). -/
theorem addCarry_iff_msb (r : BitVec n) :
    addCarry a b r = true ↔ (a.msb = true ∧ b.msb = true) ∨ (a.msb ≠ b.msb ∧ r.msb = false) := by
  simp [addCarry]

/-- The carry flag is the carry out of the unsigned sum, but where operands of different sign sum to zero (R112). -/
theorem addCarry_iff_carryOut (hn : 0 < n) : addCarry a b (addN a b) = true ↔
    2 ^ n ≤ a.toNat + b.toNat ∨ (a.msb ≠ b.msb ∧ val a + val b = 0) := by
  have hp : ((2 ^ n : Nat) : Int) = 2 * maxMag n + 2 := by rw [← two_pow_eq_maxMag hn]; norm_cast
  have hr (hne : a.msb ≠ b.msb) := addN_msb_iff a b hn fun hz => hne (by rw [hz.1, hz.2])
  rw [addCarry_iff_msb, ← Bool.not_eq_true (addN a b).msb]
  rcases sign_cases hn a with ⟨ha, _, _⟩ | ⟨ha, _, _, _⟩ <;>
    rcases sign_cases hn b with ⟨hb, _, _⟩ | ⟨hb, _, _, _⟩ <;>
    simp only [ha, hb] at hr ⊢
  case inl.inl => simp; omega
  case inr.inr => simp; omega
  all_goals rw [hr (by decide)]; simp; omega

/-- The sum as a number is congruent to the sum of the values, overflowing or not (R111). -/
theorem addN_emod (hn : 0 < n) : ((addN a b).toNat : Int) % (2 ^ n - 1) = (val a + val b) % (2 ^ n - 1) := by
  have hm : (2 ^ n - 1 : Int) = 2 * maxMag n + 1 := by rw [two_pow_eq_maxMag hn]; ring
  rw [addN_toNat a b hn, hm]
  split
  next hz =>
    rw [hz.1, hz.2, val_negZero hn, Int.emod_self]
    rfl
  next =>
    split
    · rfl
    · rw [Int.add_emod_left]

theorem addN_comm : addN a b = addN b a := by
  simp only [addN, and_comm (a := a = negZero n), Int.add_comm (val a), Nat.add_comm a.toNat]

theorem addCarry_comm (r : BitVec n) : addCarry a b r = addCarry b a r := by
  rw [Bool.eq_iff_iff, addCarry_iff_msb, addCarry_iff_msb, and_comm, ne_comm]

theorem addOverflow_comm (r : BitVec n) : addOverflow a b r = addOverflow b a r := by
  rw [Bool.eq_iff_iff, addOverflow_iff_msb, addOverflow_iff_msb, eq_comm]
  exact and_congr_right fun h => by rw [h]

end Sum

/-- Settles O17: the facts on overflow and on the zeros, which hold at every width. -/
theorem addOverflowExactly : Obligations.AddOverflowExactly := by
  refine ⟨fun a b => ?word, fun a b => ?dword⟩
  all_goals
    exact ⟨addOverflow_iff_msb a b _, addOverflow_iff_natAbs a b (by decide), val_addN a b (by decide),
      addN_eq_negZero_iff a b (by decide), addN_eq_zero a b (by decide)⟩

/-- Settles O18: the two readings of the carry and the congruence, which hold at every width. -/
theorem addCarryAndCongruence : Obligations.AddCarryAndCongruence := by
  refine ⟨fun a b => ?word, fun a b => ?dword⟩
  all_goals
    exact ⟨addCarry_iff_msb a b _, addCarry_iff_carryOut a b (by decide), addN_emod a b (by decide)⟩

/-- Settles O19: laws that hold at every width. -/
theorem kernelLaws : Obligations.KernelLaws := by
  intro N _
  refine ⟨fun v => BitVec.not_not, BitVec.not_zero, BitVec.not_allOnes, fun a b => ?_, addN_negZero⟩
  rw [addN_comm b a]
  exact ⟨rfl, addCarry_comm a b _, addOverflow_comm a b _⟩

end Sys2Proof.Machine
end

section
/-! The arithmetic commands: results, flags and frames (R115 to R131). -/

namespace Sys2Proof.Machine

/-! ADD, SUB, NEG and their double forms (R120 to R125) -/

/-- A 36-bit add-like command: the sum, and STAT by the sign formulas. -/
theorem completes_addInto {i : Instr} {s : State} {rd : GrsAddr} {a b : Word} (h : exec i s = addInto rd a b s) :
    completesTo i s [(rd, addN a b)] (sumStat s.stat.u a b (addN a b)) :=
  completesTo_setX h

/-- A 72-bit add-like command: the two words of the sum, and STAT by the sign formulas. -/
theorem completes_daddInto {i : Instr} {s : State} {rd : GrsAddr} {a b : DWord} (h : exec i s = daddInto rd a b s) :
    completesTo i s [(rd, hi (addN a b)), (grsPlus rd 1, lo (addN a b))] (sumStat s.stat.u a b (addN a b)) :=
  completesTo_setPair h

theorem hi_not (d : DWord) : hi (~~~d) = ~~~(hi d) := by
  apply BitVec.eq_of_getLsbD_eq
  intro i hlt
  have h72 : 36 + i < 72 := by omega
  simp [hi, hlt, h72]

theorem lo_not (d : DWord) : lo (~~~d) = ~~~(lo d) := by
  apply BitVec.eq_of_getLsbD_eq
  intro i hlt
  have h72 : i < 72 := by omega
  simp [lo, hlt, h72]

theorem pairsOK_of_le {rd ra rb : GrsAddr} (hrd : rd.toNat + 2 ≤ 128) (hra : ra.toNat + 2 ≤ 128)
    (hrb : rb.toNat + 2 ≤ 128) : pairsOK rd ra rb = true := by
  rw [pairsOK, groupOK_iff.2 hrd, groupOK_iff.2 hra, groupOK_iff.2 hrb]
  rfl

theorem two_groupsOK_of_le {r q : GrsAddr} (hr : r.toNat + 2 ≤ 128) (hq : q.toNat + 2 ≤ 128) :
    (groupOK r 2 && groupOK q 2) = true := by
  rw [groupOK_iff.2 hr, groupOK_iff.2 hq]
  rfl

/-- Settles O20: each command comes to the add of its width or to the complement. -/
theorem addSubNegResult : Obligations.AddSubNegResult := by
  intro s rd ra rb a b aa bb
  refine ⟨completes_addInto rfl, completes_addInto rfl, completesTo_setX rfl, fun hrd hra =>
    ⟨fun hrb => ?double, ?dneg⟩⟩
  case double =>
    have hok := pairsOK_of_le hrd hra hrb
    exact ⟨completes_daddInto (if_pos hok), completes_daddInto (if_pos hok)⟩
  case dneg =>
    have h : exec (.dneg rd ra) s = .next ((s.setPair rd (~~~(s.pair ra))).setStat ⟨false, false, false, s.stat.u⟩) :=
      if_pos (two_groupsOK_of_le hrd hra)
    have hc := completesTo_setPair h
    rwa [hi_not, lo_not, State.pair, hi_dw, lo_dw] at hc

/-! MUL and MULS (R117, R126, R127) -/

theorem outOfRange_eq (n : Nat) (i : Int) : outOfRange n i = decide (2 ^ (n - 1) - 1 < i.natAbs) := by
  rw [outOfRange, maxMag_toNat]
  exact decide_eq_decide.2 Nat.cast_lt

theorem word_natAbs_le (a : Word) : (val a).natAbs ≤ 2 ^ 35 - 1 :=
  Nat.cast_le.1 ((val_natAbs_le (by decide) a).trans_eq (maxMag_toNat 36))

/-- The product of two words fits 72 bits. -/
theorem product_natAbs_le (a b : Word) : ((val a * val b).natAbs : Int) ≤ maxMag 72 := by
  have hab := Nat.mul_le_mul (word_natAbs_le a) (word_natAbs_le b)
  rw [Int.natAbs_mul, maxMag_toNat]
  exact_mod_cast hab.trans (by decide)

theorem lo_eq_setWidth (d : DWord) : lo d = d.setWidth 36 := (BitVec.setWidth_eq_extractLsb' (by decide)).symm

/-- Settles O21: the product fits 72 bits, so MUL's pair has its value. -/
theorem multiplyResult : Obligations.MultiplyResult := by
  intro s rd ra rb P
  have hfits : (P.natAbs : Int) ≤ maxMag 72 := product_natAbs_le (s.x ra) (s.x rb)
  refine ⟨val_oc (by decide) hfits, fun hrd => ?mul, ?muls⟩
  case mul =>
    have hout : outOfRange 72 P = false := decide_eq_false (Int.not_lt.2 hfits)
    have h : exec (.mul rd ra rb) s =
        .next ((s.setPair rd (oc 72 P)).setStat ⟨false, outOfRange 72 P, false, s.stat.u⟩) :=
      if_pos (groupOK_iff.2 hrd)
    rw [hout] at h
    exact completesTo_setPair h
  case muls =>
    have h : exec (.muls rd ra rb) s =
        .next ((s.setX rd (lo (oc 72 P))).setStat ⟨false, outOfRange 36 P, false, s.stat.u⟩) := rfl
    rw [lo_eq_setWidth, outOfRange_eq] at h
    exact completesTo_setX h

/-! DIV and DIVS (R118, R128, R129) -/

/-- The low word of the 72-bit pattern of an integer is its 36-bit pattern. -/
theorem lo_oc (i : Int) : lo (oc 72 i) = oc 36 i := by
  rw [← BitVec.toNat_inj, lo, extract_toNat, oc, oc, BitVec.toNat_ofInt, BitVec.toNat_ofInt]
  split <;> omega

/-- With a divisor that is neither zero: the truncated quotient, and the remainder with the dividend's sign. -/
theorem divN_of_ne_zero {n : Nat} (dd : BitVec n) {dv : Word} (h : val dv ≠ 0) : divN dd dv =
    some ⟨lo (oc 72 ((val dd).tdiv (val dv))), oc 36 ((val dd).tmod (val dv)),
      decide (2 ^ 35 - 1 < ((val dd).tdiv (val dv)).natAbs)⟩ := by
  rw [divN, if_neg h, Int.tmod_def, Int.mul_comm (val dv)]
  exact congrArg (fun d => some (DivOut.mk _ _ d)) (outOfRange_eq 36 _)

theorem divN_of_zero {n : Nat} (dd : BitVec n) {dv : Word} (h : val dv = 0) : divN dd dv = none := if_pos h

/-- A divide with a result: quotient and remainder in the pair at `rd`, the quotient overflow in STAT.d. -/
theorem completes_divInto {i : Instr} {s : State} {rd : GrsAddr} {q rm : Word} {d : Bool}
    (h : exec i s = divInto rd (some ⟨q, rm, d⟩) s) :
    completesTo i s [(rd, q), (grsPlus rd 1, rm)] ⟨false, false, d, s.stat.u⟩ := by
  have he : exec i s = .next ((s.setPair rd (dw q rm)).setStat ⟨false, false, d, s.stat.u⟩) := by
    rw [h, State.setPair, hi_dw, lo_dw]
    rfl
  have hc := completesTo_setPair he
  rwa [hi_dw, lo_dw] at hc

/-- The quotient of two words fits 36 bits. -/
theorem quotient_natAbs_le (a b : Word) : ((val a).tdiv (val b)).natAbs ≤ 2 ^ 35 - 1 := by
  rw [Int.natAbs_tdiv]
  exact (Nat.div_le_self _ _).trans (word_natAbs_le a)

/-- Settles O22: the divisor's value decides between the two cases. -/
theorem divideResult : Obligations.DivideResult := by
  intro s rd ra rb hrd V D2 D1
  have hzero : V = 0 ↔ s.x rb = 0 ∨ s.x rb = negZero 36 := val_eq_zero_iff (by decide)
  have hdiv (hra : ra.toNat + 2 ≤ 128) : exec (.div rd ra rb) s = divInto rd (divN (s.pair ra) (s.x rb)) s :=
    if_pos (two_groupsOK_of_le hrd hra)
  have hdivs : exec (.divs rd ra rb) s = divInto rd (divN (s.x ra) (s.x rb)) s := if_pos (groupOK_iff.2 hrd)
  refine ⟨fun hne => ?quotient, fun heq => ?check⟩
  case quotient =>
    have hV : V ≠ 0 := fun h => (hzero.1 h).elim hne.1 hne.2
    refine ⟨fun hra => ?div, ?divs⟩
    case div =>
      rw [divN_of_ne_zero _ hV, lo_eq_setWidth] at hdiv
      exact completes_divInto (hdiv hra)
    case divs =>
      rw [divN_of_ne_zero _ hV, lo_oc, decide_eq_false (Nat.not_lt.2 (quotient_natAbs_le _ _))] at hdivs
      exact completes_divInto hdivs
  case check =>
    have hV : V = 0 := hzero.2 heq
    rw [divN_of_zero _ hV] at hdivs
    exact ⟨fun hra => by rw [hdiv hra, divN_of_zero _ hV]; rfl, hdivs⟩

/-! CMP and DCMP (R119, R130, R131) -/

/-- The words of −1, +0 and +1. -/
theorem cmpN_eq {n : Nat} (a b : BitVec n) :
    cmpN a b = if val a < val b then 0o777777_777776 else if val a = val b then 0 else 1 := rfl

/-- Settles O23: the destination holds the comparison, and STAT is left alone. -/
theorem compareResult : Obligations.CompareResult := by
  intro s rd ra rb
  rw [← cmpN_eq, ← cmpN_eq]
  refine ⟨completesTo_setX (st := s.stat) rfl, fun hra hrb => completesTo_setX (st := s.stat) ?_⟩
  exact if_pos (two_groupsOK_of_le hra hrb)

end Sys2Proof.Machine
end

section
/-! The bits of a shift, at every width and for every count (R151 to R155). -/

namespace Sys2Proof.Machine

section Bits

variable {N : Nat} (fill : AlgLeftFill) (v : BitVec N) (n : Nat) {k : Nat}

/-! Rotations (R152) -/

/-- The bit a rotation brings to a place is the one the count away, whole turns apart. -/
theorem circularBit_eq {c : Int} {i : Nat} (turns : Int) (hi : i < N) (h : (k : Int) - c = i + N * turns) :
    circularBit v c k = v.getLsbD i := by
  rw [circularBit, h, Int.add_mul_emod_self_left, Int.emod_eq_of_lt (by omega) (by omega), Int.toNat_natCast]

theorem circL_eq_rotateLeft : circL v n = v.rotateLeft n := rfl

theorem circR_eq_rotateRight : circR v n = v.rotateRight n := rfl

/-- A left rotation has two parts: the bits that came around, and above them the bits moved up. -/
theorem getLsbD_circL (hk : k < N) : (circL v n).getLsbD k = circularBit v n k := by
  have hr : n % N < N := Nat.mod_lt n (by omega)
  have hn : (N : Int) * (n / N : Nat) + (n % N : Nat) = n := by exact_mod_cast Nat.div_add_mod n N
  rw [circL_eq_rotateLeft, BitVec.getLsbD_rotateLeft]
  by_cases h : k < n % N
  · have hi : ((N - n % N + k : Nat) : Int) = N - (n % N : Nat) + k := by omega
    have hturns : (k : Int) - n = (N - n % N + k : Nat) + N * (-(n / N : Nat) - 1) := by rw [hi]; linarith
    rw [circularBit_eq v _ (by omega) hturns, decide_eq_true h, cond_true]
  · have hi : ((k - n % N : Nat) : Int) = k - (n % N : Nat) := by omega
    have hturns : (k : Int) - n = (k - n % N : Nat) + N * -(n / N : Nat) := by rw [hi]; linarith
    rw [circularBit_eq v _ (by omega) hturns, decide_eq_false h, decide_eq_true hk, cond_false, Bool.true_and]

/-- A right rotation has two parts: the bits moved down, and above them the bits that came around. -/
theorem getLsbD_circR (hk : k < N) : (circR v n).getLsbD k = circularBit v (-n) k := by
  have hr : n % N < N := Nat.mod_lt n (by omega)
  have hn : (N : Int) * (n / N : Nat) + (n % N : Nat) = n := by exact_mod_cast Nat.div_add_mod n N
  rw [circR_eq_rotateRight, BitVec.getLsbD_rotateRight]
  by_cases h : k < N - n % N
  · have hi : ((n % N + k : Nat) : Int) = (n % N : Nat) + k := by omega
    have hturns : (k : Int) - -n = (n % N + k : Nat) + N * (n / N : Nat) := by rw [hi]; linarith
    rw [circularBit_eq v _ (by omega) hturns, decide_eq_true h, cond_true]
  · have hi : ((k - (N - n % N) : Nat) : Int) = k - (N - (n % N : Nat)) := by omega
    have hturns : (k : Int) - -n = (k - (N - n % N) : Nat) + N * ((n / N : Nat) + 1) := by rw [hi]; linarith
    rw [circularBit_eq v _ (by omega) hturns, decide_eq_false h, decide_eq_true hk, cond_false, Bool.true_and]

/-! Logical shifts (R153) -/

theorem logL_eq_shiftLeft : logL v n = v <<< n := by
  rw [logL]
  split
  next h => exact (BitVec.shiftLeft_eq_zero h).symm
  next => rfl

theorem logR_eq_ushiftRight : logR v n = v >>> n := by
  rw [logR]
  split
  next h => exact (BitVec.ushiftRight_eq_zero h).symm
  next => rfl

theorem getLsbD_logL (hk : k < N) : (logL v n).getLsbD k = logicalBit v n k := by
  rw [logL_eq_shiftLeft, BitVec.getLsbD_shiftLeft, logicalBit]
  by_cases h : k < n
  · simp [h]
  · have hsub : (k : Int) - n = ((k - n : Nat) : Int) := by omega
    have hlt : k - n < N := by omega
    simp [h, hk, hsub, hlt]

theorem getLsbD_logR : (logR v n).getLsbD k = logicalBit v (-n) k := by
  have hadd : (k : Int) - -n = ((n + k : Nat) : Int) := by omega
  rw [logR_eq_ushiftRight, BitVec.getLsbD_ushiftRight, logicalBit, hadd, Int.toNat_natCast]
  by_cases h : n + k < N
  · rw [decide_eq_true (Int.natCast_nonneg _), decide_eq_true (Int.ofNat_lt.2 h)]
    rfl
  · simp [BitVec.getLsbD_of_ge v _ (Nat.le_of_not_lt h)]

/-! Algebraic shifts (R154, R155) -/

theorem getLsbD_ite_zero (b : Bool) : (if b then v else 0).getLsbD k = (b && v.getLsbD k) := by
  cases b
  · exact BitVec.getLsbD_zero
  · rfl

/-- Past the sign bit a right shift reads copies of it. -/
theorem getLsbD_algR (hk : k < N) : (algR v n).getLsbD k = algebraicBit fill v (-n) k := by
  have hadd : (k : Int) - -n = ((n + k : Nat) : Int) := by omega
  have hnonneg : ¬((n + k : Nat) : Int) < 0 := by omega
  rw [algebraicBit, hadd, if_neg hnonneg, Int.toNat_natCast, algR, BitVec.getLsbD_or, BitVec.getLsbD_ushiftRight,
    getLsbD_ite_zero, BitVec.getLsbD_not, BitVec.getLsbD_ushiftRight, BitVec.getLsbD_allOnes, decide_eq_true hk]
  rcases lt_trichotomy (n + k) (N - 1) with h | h | h
  · have hmin : min n N = n := by omega
    have hin : n + k < N := by omega
    rw [if_neg (by omega), if_neg (by omega), hmin, decide_eq_true hin]
    simp
  · have hmin : min n N = n := by omega
    have hin : n + k < N := by omega
    have hmsb : v.getLsbD (n + k) = v.msb := by rw [h, BitVec.msb_eq_getLsbD_last]
    rw [if_pos (c := _ ≤ _) (by omega), ite_self, hmin, hmsb, decide_eq_true hin]
    simp
  · have hout : N ≤ min n N + k := by omega
    rw [if_pos (c := _ ≤ _) (by omega), ite_self, BitVec.getLsbD_of_ge v _ hout, decide_eq_false (Nat.not_lt.2 hout)]
    simp

/-- The bits below the sign bit of an algebraic left shift whose fill is `f` (R155). -/
def algLow (f : Bool) : BitVec (N - 1) :=
  if n ≥ N - 1 then (if f then BitVec.allOnes (N - 1) else 0)
  else ((v.setWidth (N - 1)) <<< n) ||| (if f then ~~~(BitVec.allOnes (N - 1) <<< n) else 0)

theorem algL_eq : algL fill v n = (algLow v n (decide (fill = .sign) && v.msb)).setWidth N |||
    (if v.msb then BitVec.twoPow N (N - 1) else 0) := rfl

/-- The places a left shift leaves take the fill, the places above them the bits of the value. -/
theorem getLsbD_algLow (f : Bool) (hk : k < N - 1) :
    (algLow v n f).getLsbD k = if k < n then f else v.getLsbD (k - n) := by
  rw [algLow]
  split
  next h =>
    have hlt : k < n := by omega
    rw [if_pos hlt, getLsbD_ite_zero, BitVec.getLsbD_allOnes, decide_eq_true hk, Bool.and_true]
  next h =>
    have hsub : k - n < N - 1 := by omega
    rw [BitVec.getLsbD_or, BitVec.getLsbD_shiftLeft, BitVec.getLsbD_setWidth, getLsbD_ite_zero, BitVec.getLsbD_not,
      BitVec.getLsbD_shiftLeft, BitVec.getLsbD_allOnes, decide_eq_true hk, decide_eq_true hsub]
    by_cases hlt : k < n <;> simp [hlt]

/-- A left shift keeps the sign bit. -/
theorem getLsbD_algL (hk : k < N) : (algL fill v n).getLsbD k = algebraicBit fill v n k := by
  rw [algebraicBit, algL_eq, BitVec.getLsbD_or, BitVec.getLsbD_setWidth, getLsbD_ite_zero, BitVec.getLsbD_twoPow,
    decide_eq_true hk]
  rcases Nat.eq_or_lt_of_le (Nat.le_sub_one_of_lt hk) with rfl | h
  · rw [BitVec.getLsbD_of_ge _ _ le_rfl, if_pos rfl]
    simp [hk]
  · have hne : ¬N - 1 = k := by omega
    rw [getLsbD_algLow v n _ h, if_neg (Ne.symm hne), if_neg (c := _ ≤ _) (by omega)]
    by_cases hlt : k < n
    · have hneg : (k : Int) - n < 0 := by omega
      simp [hlt, hne, hneg]
    · have hsub : (k : Int) - n = (k - n : Nat) := by omega
      simp [hlt, hne, hsub]

/-! The three kinds in one -/

/-- Bit `k` of a left shift of `v` by `c` places, right where `c` is negative, by the kind of shift (R151). -/
def shiftBit (kind : ShiftKind) (c : Int) (k : Nat) : Bool :=
  match kind with
  | .circular => circularBit v c k
  | .logical => logicalBit v c k
  | .algebraic => algebraicBit fill v c k

theorem getLsbD_leftBy (kind : ShiftKind) (hk : k < N) :
    (leftBy fill kind v n).getLsbD k = shiftBit fill v kind n k :=
  match kind with
  | .circular => getLsbD_circL v n hk
  | .logical => getLsbD_logL v n hk
  | .algebraic => getLsbD_algL fill v n hk

theorem getLsbD_rightBy (kind : ShiftKind) (hk : k < N) :
    (rightBy kind v n).getLsbD k = shiftBit fill v kind (-n) k :=
  match kind with
  | .circular => getLsbD_circR v n hk
  | .logical => getLsbD_logR v n
  | .algebraic => getLsbD_algR fill v n hk

theorem getLsbD_shiftL (kind : ShiftKind) (c : Int) (hk : k < N) :
    (shiftL fill kind v c).getLsbD k = shiftBit fill v kind c k := by
  rw [shiftL]
  split
  next h => rw [getLsbD_leftBy fill v _ kind hk, Int.natAbs_of_nonneg h]
  next h => rw [getLsbD_rightBy fill v _ kind hk, Int.ofNat_natAbs_of_nonpos (by omega), Int.neg_neg]

theorem getLsbD_shiftR (kind : ShiftKind) (c : Int) (hk : k < N) :
    (shiftR fill kind v c).getLsbD k = shiftBit fill v kind (-c) k := by
  rw [shiftR]
  split
  next h => rw [getLsbD_rightBy fill v _ kind hk, Int.natAbs_of_nonneg h]
  next h => rw [getLsbD_leftBy fill v _ kind hk, Int.ofNat_natAbs_of_nonpos (by omega)]

end Bits
end Sys2Proof.Machine
end

section
/-! The bitwise and shift commands: results and frames (R150 to R177). -/

namespace Sys2Proof.Machine

/-! AND, OR, XOR and their double forms (R160 to R165) -/

/-- A 72-bit bitwise command whose function works on each word of a pair for itself. -/
theorem completes_bitwise72 {i : Instr} {s : State} {rd ra rb : GrsAddr} {f : DWord → DWord → DWord}
    {g : Word → Word → Word} (h : exec i s = bitwise72 f rd ra rb s) (hrd : rd.toNat + 2 ≤ 128)
    (hra : ra.toNat + 2 ≤ 128) (hrb : rb.toNat + 2 ≤ 128)
    (hword : ∀ a b q, (f a b).extractLsb' q 36 = g (a.extractLsb' q 36) (b.extractLsb' q 36)) :
    completesTo i s
      [(rd, g (s.x ra) (s.x rb)), (grsPlus rd 1, g (s.x (grsPlus ra 1)) (s.x (grsPlus rb 1)))] s.stat := by
  have hhi (a b : DWord) : hi (f a b) = g (hi a) (hi b) := hword a b 36
  have hlo (a b : DWord) : lo (f a b) = g (lo a) (lo b) := hword a b 0
  have hc := completesTo_setPair (st := s.stat) (h.trans (if_pos (pairsOK_of_le hrd hra hrb)))
  rwa [hhi, hlo, State.pair, State.pair, hi_dw, hi_dw, lo_dw, lo_dw] at hc

/-- Settles O24: the three functions work bit by bit, and so on each word of a pair for itself. -/
theorem bitwiseResult : Obligations.BitwiseResult := by
  intro s rd ra rb
  refine ⟨⟨setsBits_setX rfl fun k _ => BitVec.getLsbD_and, setsBits_setX rfl fun k _ => BitVec.getLsbD_or,
    setsBits_setX rfl fun k _ => BitVec.getLsbD_xor⟩, fun hrd hra hrb => ?pairs⟩
  case pairs =>
    exact ⟨completes_bitwise72 rfl hrd hra hrb fun _ _ _ => BitVec.extractLsb'_and,
      completes_bitwise72 rfl hrd hra hrb fun a b q => extract_or a b q 36,
      completes_bitwise72 rfl hrd hra hrb fun _ _ _ => BitVec.extractLsb'_xor⟩

/-! Shifts (R166 to R177) -/

/-- The four commands of one kind of shift: to the left and to the right, of a word and of a pair. -/
theorem shifts_setBits (kind : ShiftKind) {left right dleft dright : Instr} {s : State} {rd ra rb : GrsAddr}
    (hl : exec left s = shift36 (shiftL s.cfg.algLeftFill kind) rd ra rb s)
    (hr : exec right s = shift36 (shiftR s.cfg.algLeftFill kind) rd ra rb s)
    (hdl : exec dleft s = shift72 (shiftL s.cfg.algLeftFill kind) rd ra rb s)
    (hdr : exec dright s = shift72 (shiftR s.cfg.algLeftFill kind) rd ra rb s) :
    (setsBits left s rd (shiftBit s.cfg.algLeftFill (s.x ra) kind (val (s.x rb))) ∧
      setsBits right s rd (shiftBit s.cfg.algLeftFill (s.x ra) kind (-val (s.x rb)))) ∧
    (rd.toNat + 2 ≤ 128 → ra.toNat + 2 ≤ 128 →
      setsPairBits dleft s rd (shiftBit s.cfg.algLeftFill (s.pair ra) kind (val (s.x rb))) ∧
      setsPairBits dright s rd (shiftBit s.cfg.algLeftFill (s.pair ra) kind (-val (s.x rb)))) := by
  refine ⟨⟨setsBits_setX hl fun k hk => getLsbD_shiftL _ _ kind _ hk,
    setsBits_setX hr fun k hk => getLsbD_shiftR _ _ kind _ hk⟩, fun hrd hra => ?pairs⟩
  case pairs =>
    have hok := two_groupsOK_of_le hrd hra
    exact ⟨setsPairBits_setPair (hdl.trans (if_pos hok)) fun k hk => getLsbD_shiftL _ _ kind _ hk,
      setsPairBits_setPair (hdr.trans (if_pos hok)) fun k hk => getLsbD_shiftR _ _ kind _ hk⟩

/-- Settles O25: the bits of a rotation. -/
theorem circularShiftResult : Obligations.CircularShiftResult :=
  fun _ _ _ _ => shifts_setBits .circular rfl rfl rfl rfl

/-- Settles O26: the bits of a logical shift. -/
theorem logicalShiftResult : Obligations.LogicalShiftResult :=
  fun _ _ _ _ => shifts_setBits .logical rfl rfl rfl rfl

/-- Settles O27: the bits of an algebraic shift, under the fill the state is configured with. -/
theorem algebraicShiftResult : Obligations.AlgebraicShiftResult :=
  fun _ _ _ _ => shifts_setBits .algebraic rfl rfl rfl rfl

end Sys2Proof.Machine
end

section
/-! The laws of the shifts (R154 to R156). -/

namespace Sys2Proof.Machine

section Laws

variable {N : Nat} (fill : AlgLeftFill) (v : BitVec N) (n : Nat)

theorem shiftBit_zero (kind : ShiftKind) {k : Nat} (hk : k < N) : shiftBit fill v kind 0 k = v.getLsbD k := by
  cases kind with
  | circular => exact circularBit_eq v 0 hk (by simp)
  | logical => simp [shiftBit, logicalBit, hk]
  | algebraic =>
    have hin : k ≠ N - 1 → ¬(N : Int) - 1 ≤ k := by omega
    by_cases h : k = N - 1
    · simp [shiftBit, algebraicBit, h, BitVec.msb_eq_getLsbD_last]
    · simp [shiftBit, algebraicBit, h, hin h]

theorem leftBy_zero (kind : ShiftKind) : leftBy fill kind v 0 = v :=
  BitVec.eq_of_getLsbD_eq fun _ hk => (getLsbD_leftBy fill v 0 kind hk).trans (shiftBit_zero fill v kind hk)

theorem rightBy_zero (kind : ShiftKind) : rightBy kind v 0 = v :=
  BitVec.eq_of_getLsbD_eq fun _ hk => (getLsbD_rightBy .sign v 0 kind hk).trans (shiftBit_zero .sign v kind hk)

theorem circL_width : circL v N = v := by
  refine BitVec.eq_of_getLsbD_eq fun k hk => ?_
  rw [getLsbD_circL v N hk, circularBit_eq v (-1) hk (by ring)]

/-- The bit a right rotation takes is the one the left rotation brought there, whole turns apart. -/
theorem circR_circL : circR (circL v n) n = v := by
  refine BitVec.eq_of_getLsbD_eq fun k hk => ?_
  have hN : (N : Int) ≠ 0 := by omega
  obtain ⟨i, hi⟩ := Int.eq_ofNat_of_zero_le (Int.emod_nonneg ((k : Int) - -n) hN)
  have hlt : ((k : Int) - -n) % N < N := Int.emod_lt_of_pos _ (by omega)
  have hturns := Int.emod_add_mul_ediv ((k : Int) - -n) N
  rw [hi] at hlt hturns
  rw [getLsbD_circR _ n hk, circularBit, hi, Int.toNat_natCast, getLsbD_circL v n (by omega),
    circularBit_eq v (-(((k : Int) - -n) / N)) hk (by linarith)]

theorem algL_msb (hN : 0 < N) : (algL fill v n).msb = v.msb := by
  rw [BitVec.msb_eq_getLsbD_last, getLsbD_algL fill v n (Nat.sub_one_lt_of_lt hN), algebraicBit, if_pos rfl]

theorem algR_msb (hN : 0 < N) : (algR v n).msb = v.msb := by
  rw [BitVec.msb_eq_getLsbD_last, getLsbD_algR .sign v n (Nat.sub_one_lt_of_lt hN), algebraicBit, if_pos rfl]

end Laws

/-- Settles O28: laws that hold at every width above 0. -/
theorem shiftLaws : Obligations.ShiftLaws := by
  intro N hN v n fill
  have hpos : 0 < N := by omega
  exact ⟨circL_width v, circR_circL v n, fun h => ⟨if_pos h, if_pos h⟩, algL_msb fill v n hpos, algR_msb v n hpos,
    leftBy_zero fill v .circular, rightBy_zero v .circular, leftBy_zero fill v .logical, rightBy_zero v .logical,
    leftBy_zero fill v .algebraic, rightBy_zero v .algebraic⟩

section Scaling

variable {N : Nat} (v : BitVec N) (n : Nat)

/-! Shifts with the sign as fill commute with the complement -/

theorem val_not (hN : 0 < N) : val (~~~v) = -val v := by
  cases h : v.msb <;> simp [val, h, BitVec.msb_not, hN]

theorem algebraicBit_not (c : Int) {k : Nat} (hk : k < N) :
    algebraicBit .sign (~~~v) c k = !algebraicBit .sign v c k := by
  have hN : 0 < N := by omega
  have hmsb : (~~~v).msb = !v.msb := by simp [BitVec.msb_not, hN]
  rw [algebraicBit, algebraicBit, hmsb, decide_eq_true rfl, Bool.true_and, Bool.true_and]
  split_ifs
  case neg =>
    have hlt : ((k : Int) - c).toNat < N := by omega
    rw [BitVec.getLsbD_not, decide_eq_true hlt, Bool.true_and]
  all_goals rfl

theorem algR_not : algR (~~~v) n = ~~~(algR v n) := by
  refine BitVec.eq_of_getLsbD_eq fun k hk => ?_
  rw [getLsbD_algR .sign _ n hk, algebraicBit_not v _ hk, BitVec.getLsbD_not, getLsbD_algR .sign v n hk,
    decide_eq_true hk, Bool.true_and]

theorem algL_not : algL .sign (~~~v) n = ~~~(algL .sign v n) := by
  refine BitVec.eq_of_getLsbD_eq fun k hk => ?_
  rw [getLsbD_algL .sign _ n hk, algebraicBit_not v _ hk, BitVec.getLsbD_not, getLsbD_algL .sign v n hk,
    decide_eq_true hk, Bool.true_and]

/-! Division and multiplication by a power of two (R154, R155) -/

/-- Without the sign bit an algebraic right shift is a logical one. -/
theorem algR_of_msb_false (h : v.msb = false) : algR v n = v >>> n := by
  have hmin : v >>> min n N = v >>> n := by
    rcases le_total n N with hn | hn
    · rw [min_eq_left hn]
    · rw [min_eq_right hn, BitVec.ushiftRight_eq_zero le_rfl, BitVec.ushiftRight_eq_zero hn]
  rw [algR, h, hmin]
  exact BitVec.or_zero

theorem val_algR_of_msb_false (hN : 0 < N) (h : v.msb = false) : val (algR v n) = (val v).tdiv (2 ^ n) := by
  rw [val_of_msb_false ((algR_msb v n hN).trans h), val_of_msb_false h, algR_of_msb_false v n h,
    BitVec.toNat_ushiftRight, Nat.shiftRight_eq_div_pow]
  exact_mod_cast Int.ofNat_tdiv v.toNat (2 ^ n)

/-- Complementing changes the sign, so the values below zero follow from those above. -/
theorem val_algR (hN : 0 < N) : val (algR v n) = (val v).tdiv (2 ^ n) := by
  cases h : v.msb with
  | false => exact val_algR_of_msb_false v n hN h
  | true =>
    have hnot : (~~~v).msb = false := by simp [BitVec.msb_not, h]
    have hv := val_algR_of_msb_false (~~~v) n hN hnot
    rw [algR_not, val_not _ hN, val_not _ hN, Int.neg_tdiv] at hv
    exact Int.neg_inj.1 hv

theorem toNat_shiftLeft_of_lt (hfit : v.toNat * 2 ^ n < 2 ^ (N - 1)) : (v <<< n).toNat = v.toNat * 2 ^ n := by
  have hle : 2 ^ (N - 1) ≤ 2 ^ N := Nat.pow_le_pow_right (by decide) (Nat.sub_le N 1)
  rw [BitVec.toNat_shiftLeft, Nat.shiftLeft_eq, Nat.mod_eq_of_lt (hfit.trans_le hle)]

/-- Without the sign bit, and where no bit is lost, an algebraic left shift is a logical one. -/
theorem algL_of_msb_false (h : v.msb = false) (hfit : v.toNat * 2 ^ n < 2 ^ (N - 1)) : algL .sign v n = v <<< n := by
  have hmsb : (v <<< n).msb = false := by
    rw [BitVec.msb_eq_decide, toNat_shiftLeft_of_lt v n hfit]
    exact decide_eq_false (Nat.not_le.2 hfit)
  refine BitVec.eq_of_getLsbD_eq fun k hk => ?_
  rw [getLsbD_algL .sign v n hk, algebraicBit, h, Bool.and_false]
  by_cases htop : k = N - 1
  · rw [if_pos htop, htop, ← BitVec.msb_eq_getLsbD_last, hmsb]
  · rw [if_neg htop, if_neg (c := _ ≤ _) (by omega), BitVec.getLsbD_shiftLeft, decide_eq_true hk]
    by_cases hlt : k < n
    · have hneg : (k : Int) - n < 0 := by omega
      simp [hlt, hneg]
    · have hsub : (k : Int) - n = (k - n : Nat) := by omega
      simp [hlt, hsub]

theorem val_algL_of_msb_false (hN : 0 < N) (h : v.msb = false) (hfit : (val v * 2 ^ n).natAbs ≤ 2 ^ (N - 1) - 1) :
    val (algL .sign v n) = val v * 2 ^ n := by
  have hlt : v.toNat * 2 ^ n < 2 ^ (N - 1) := by
    rw [val_of_msb_false h, Int.natAbs_mul, Int.natAbs_pow] at hfit
    exact Nat.lt_of_le_sub_one (Nat.two_pow_pos _) hfit
  rw [val_of_msb_false ((algL_msb .sign v n hN).trans h), val_of_msb_false h, algL_of_msb_false v n h hlt,
    toNat_shiftLeft_of_lt v n hlt]
  push_cast
  rfl

theorem val_algL (hN : 0 < N) (hfit : (val v * 2 ^ n).natAbs ≤ 2 ^ (N - 1) - 1) :
    val (algL .sign v n) = val v * 2 ^ n := by
  cases h : v.msb with
  | false => exact val_algL_of_msb_false v n hN h hfit
  | true =>
    have hnot : (~~~v).msb = false := by simp [BitVec.msb_not, h]
    have hval : val (~~~v) * 2 ^ n = -(val v * 2 ^ n) := by rw [val_not v hN, Int.neg_mul]
    have hv := val_algL_of_msb_false (~~~v) n hN hnot (by rwa [hval, Int.natAbs_neg])
    rw [algL_not, val_not _ hN, hval] at hv
    exact Int.neg_inj.1 hv

end Scaling

/-- Settles O29: scalings that hold at every width above 0. -/
theorem algebraicShiftScales : Obligations.AlgebraicShiftScales :=
  ⟨fun v n => val_algR v n (by decide), fun v n => val_algR v n (by decide), fun v n => val_algL v n (by decide),
    fun v n => val_algL v n (by decide)⟩

end Sys2Proof.Machine
end

section
/-! Partial-word fields: EXTS, DEXTS and FLDX (R92, R180 to R182, R190 to R192). -/

namespace Sys2Proof.Machine

/-! Sign extension (R180) -/

/-- The bits that join the value are those above the field, where its sign bit is set. -/
theorem getLsbD_extendSign {N : Nat} (v : BitVec N) {n k : Nat} (hk : k < N) :
    (extendSign v n).getLsbD k = (v.getLsbD k || (decide (n ≤ k) && v.getLsbD (n - 1))) := by
  rw [extendSign]
  split
  next hsign =>
    have habove : (!decide (k < n)) = decide (n ≤ k) := by rw [← decide_not, decide_eq_decide, Nat.not_lt]
    simp [hsign, hk, habove]
  next hsign => simp [hsign]

theorem fieldSizeOK_iff {N : Nat} {n : BitVec 7} : fieldSizeOK N n = true ↔ 1 ≤ n.toNat ∧ n.toNat ≤ N := by
  simp [fieldSizeOK]

/-- Settles O30: both sizes are legal, and the result is the value with its sign extended. -/
theorem signExtendResult : Obligations.SignExtendResult := by
  intro s rd ra n hpos
  refine ⟨fun hn => ?word, fun hn hrd hra => ?pair⟩
  case word =>
    exact setsBits_setX (if_pos (fieldSizeOK_iff.2 ⟨hpos, hn⟩)) fun k hk => getLsbD_extendSign _ hk
  case pair =>
    have hok : (fieldSizeOK 72 n && groupOK rd 2 && groupOK ra 2) = true := by
      rw [fieldSizeOK_iff.2 ⟨hpos, hn⟩, groupOK_iff.2 hrd, groupOK_iff.2 hra]
      rfl
    exact setsPairBits_setPair (if_pos hok) fun k hk => getLsbD_extendSign _ hk

/-! Field extraction (R92, R182) -/

theorem getLsbD_zfield (v : Word) (low len : Nat) {k : Nat} (hk : k < 36) :
    (zfield v low len).getLsbD k = (decide (k < len) && v.getLsbD (low + k)) := by
  rw [zfield, BitVec.getLsbD_setWidth, getLsbD_extract, decide_eq_true hk, Bool.true_and]

theorem getLsbD_sfield (v : Word) (low : Nat) {len k : Nat} (hlen : 0 < len) (hk : k < 36) :
    (sfield v low len).getLsbD k = if k < len then v.getLsbD (low + k) else v.getLsbD (low + len - 1) := by
  have htop : len - 1 < len := Nat.sub_one_lt_of_lt hlen
  rw [sfield, BitVec.getLsbD_signExtend, decide_eq_true hk, Bool.true_and, BitVec.msb_eq_getLsbD_last, getLsbD_extract,
    getLsbD_extract, decide_eq_true htop, Bool.true_and, ← Nat.add_sub_assoc hlen]
  split
  next h => rw [decide_eq_true h, Bool.true_and]
  next => rfl

theorem partialFields_pos {qw : Bool} {low len : Nat} {signed : Bool} (h : (low, len, signed) ∈ partialFields qw) :
    0 < len := by
  have hall : ∀ b, ∀ e ∈ partialFields b, 0 < e.2.1 := by decide
  exact hall qw _ h

/-- U and XU name no field; their entries in the table are the low half, with zeros and with its sign. -/
theorem partialFields_immediate {j : BitVec 4} (qw : Bool) (h : 14 ≤ j.toNat) :
    fieldOf j qw = none ∧ (partialFields qw)[j.toNat]? = some (0, 18, decide (j ≠ 14)) := by
  revert j qw
  decide

/-- What FLDX takes, as the table says: the field, with its sign or with zeros. -/
theorem extractField_eq {qw : Bool} {j : BitVec 4} {low len : Nat} {signed : Bool} (v : Word)
    (h : (partialFields qw)[j.toNat]? = some (low, len, signed)) :
    extractField v j qw = if signed then sfield v low len else zfield v low len := by
  rw [extractField]
  rcases Nat.lt_or_ge j.toNat 14 with hj | hj
  · rw [fieldOf_eq_partialFields qw hj, h]
    rfl
  · obtain ⟨hnone, hentry⟩ := partialFields_immediate qw hj
    obtain ⟨rfl, rfl, rfl⟩ : 0 = low ∧ 18 = len ∧ decide (j ≠ 14) = signed := by simpa [hentry] using h
    rw [hnone]
    by_cases hu : j = 14 <;> simp [hu]

/-- Settles O31: the bits of a field with its sign and of one with zeros. -/
theorem fieldExtractResult : Obligations.FieldExtractResult := by
  intro s rd ra j qw low len signed h
  have hlen : 0 < len := partialFields_pos (List.mem_of_getElem? h)
  refine setsBits_setX (v := extractField (s.x ra) j qw) rfl fun k hk => ?_
  rw [extractField_eq _ h]
  cases signed with
  | true => rw [if_pos rfl, getLsbD_sfield _ _ hlen hk, Bool.true_and]
  | false =>
    rw [if_neg Bool.false_ne_true, getLsbD_zfield _ _ _ hk, Bool.false_and]
    by_cases hin : k < len <;> simp [hin]

end Sys2Proof.Machine
end

section
/-! Packing and unpacking of characters: PACKA, PACKF, UNPKA and UNPKF (R184, R185, R194 to R197). -/

namespace Sys2Proof.Machine

/-! Packing -/

/-- A code placed as a digit of a word shows in its own place only. -/
theorem getLsbD_place_digit {n p i b : Nat} (v : BitVec n) (hp : p = n * i) (hb : b < 36) :
    (place 36 v p).getLsbD b = (decide (b / n = i) && v.getLsbD (b % n)) := by
  rw [getLsbD_place, decide_eq_true hb, Bool.true_and, hp]
  have hsplit := Nat.div_add_mod b n
  by_cases hdigit : b / n = i
  · subst hdigit
    have hle : ¬b < n * (b / n) := by omega
    have hsub : b - n * (b / n) = b % n := by omega
    simp [hle, hsub]
  · rw [decide_eq_false hdigit, Bool.false_and]
    rcases Nat.lt_or_ge b (n * i) with hlow | hhigh
    · simp [hlow]
    · have hout : n ≤ b - n * i := by
        by_contra hlt
        exact hdigit (Nat.div_eq_of_lt_le (by linarith) (by linarith [Nat.sub_add_cancel hhigh]))
      rw [BitVec.getLsbD_of_ge v _ hout, Bool.and_false]

/-- The quarters of a packed word, the first code on the left (R184). -/
theorem getLsbD_packA (cs : List (BitVec 9)) {b : Nat} (hb : b < 36) :
    (packA cs).getLsbD b = (cs.getD (3 - b / 9) asciiPad).getLsbD (b % 9) := by
  rw [packA, BitVec.getLsbD_or, BitVec.getLsbD_or, BitVec.getLsbD_or, getLsbD_place_digit (i := 3) _ rfl hb,
    getLsbD_place_digit (i := 2) _ rfl hb, getLsbD_place_digit (i := 1) _ rfl hb, getLsbD_place_digit (i := 0) _ rfl hb]
  have hq : b / 9 < 4 := by omega
  generalize b / 9 = q at hq
  interval_cases q <;> simp

/-- The sixths of a packed word, the first code on the left (R185). -/
theorem getLsbD_packF (cs : List (BitVec 6)) {b : Nat} (hb : b < 36) :
    (packF cs).getLsbD b = (cs.getD (5 - b / 6) fieldataPad).getLsbD (b % 6) := by
  rw [packF, BitVec.getLsbD_or, BitVec.getLsbD_or, BitVec.getLsbD_or, BitVec.getLsbD_or, BitVec.getLsbD_or,
    getLsbD_place_digit (i := 5) _ rfl hb, getLsbD_place_digit (i := 4) _ rfl hb,
    getLsbD_place_digit (i := 3) _ rfl hb, getLsbD_place_digit (i := 2) _ rfl hb,
    getLsbD_place_digit (i := 1) _ rfl hb, getLsbD_place_digit (i := 0) _ rfl hb]
  have hq : b / 6 < 6 := by omega
  generalize b / 6 = q at hq
  interval_cases q <;> simp

/-- A code of a group cut to `m` registers: the register's low bits where the code is supplied, else the pad. -/
theorem codes_getD (s : State) (w : Nat) (ra : GrsAddr) {k m i : Nat} (hi : i < m) (pad : Word) :
    (s.codes w ra (min k m)).getD i (pad.extractLsb' 0 w) =
      (if i < k then s.x (grsPlus ra i) else pad).extractLsb' 0 w := by
  rw [State.codes, List.getD_eq_getElem?_getD, List.getElem?_map]
  by_cases h : i < k
  · rw [List.getElem?_range (Nat.lt_min.2 ⟨h, hi⟩), if_pos h]
    rfl
  · have hout : ¬i < min k m := fun hlt => h (Nat.lt_min.1 hlt).1
    simp [h, hout]

/-- A command that packs a group's codes into a word whose digits, from the place `top` down, are the codes. -/
theorem setsBits_pack {i : Instr} {s : State} {rd ra : GrsAddr} {w top k : Nat} {pack : List (BitVec w) → Word}
    {codePad : BitVec w} {pad : Word} (h : exec i s = .next (s.setX rd (pack (s.codes w ra (min k (top + 1))))))
    (hw : 0 < w) (hpad : codePad = pad.extractLsb' 0 w)
    (hbits : ∀ cs, ∀ b < 36, (pack cs).getLsbD b = (cs.getD (top - b / w) codePad).getLsbD (b % w)) :
    setsBits i s rd fun b => (if top - b / w < k then s.x (grsPlus ra (top - b / w)) else pad).getLsbD (b % w) := by
  refine setsBits_setX h fun b hb => ?_
  rw [hbits _ b hb, hpad, codes_getD s w ra (Nat.lt_succ_of_le (Nat.sub_le top _)), getLsbD_extract,
    decide_eq_true (Nat.mod_lt b hw), Bool.true_and, Nat.zero_add]

/-- Settles O33: quarters and sixths of the packed word are the group's codes and then the pad. -/
theorem packResult : Obligations.PackResult := by
  intro s rd ra k
  refine ⟨fun hra => ?ascii, fun hra => ?fieldata⟩
  case ascii =>
    have h : exec (.packa rd ra k) s = .next (s.setX rd (packA (s.codes 9 ra (min k.toNat 4)))) :=
      if_pos (groupOK_iff.2 hra)
    exact setsBits_pack (top := 3) h (by decide) (by decide) fun cs _ hb => getLsbD_packA cs hb
  case fieldata =>
    have h : exec (.packf rd ra k) s = .next (s.setX rd (packF (s.codes 6 ra (min k.toNat 6)))) :=
      if_pos (groupOK_iff.2 hra)
    exact setsBits_pack (top := 5) h (by decide) (by decide) fun cs _ hb => getLsbD_packF cs hb

/-! Unpacking -/

/-- A field as a shift and a mask. -/
theorem extract_setWidth_eq_and (v : Word) (low len : Nat) :
    (v.extractLsb' low len).setWidth 36 = v >>> low &&& (BitVec.allOnes len).setWidth 36 := by
  refine BitVec.eq_of_getLsbD_eq fun k hk => ?_
  rw [BitVec.getLsbD_setWidth, getLsbD_extract, BitVec.getLsbD_and, BitVec.getLsbD_ushiftRight, BitVec.getLsbD_setWidth,
    BitVec.getLsbD_allOnes, Bool.and_comm (v.getLsbD _), Bool.and_assoc]

/-- The words UNPKA writes (R195). -/
theorem unpackA_words (w : Word) : (unpackA w).map (·.setWidth 36) =
    [w >>> 27 &&& 0o777, w >>> 18 &&& 0o777, w >>> 9 &&& 0o777, w &&& 0o777] := by
  simp [unpackA, extract_setWidth_eq_and]

/-- The words UNPKF writes (R197). -/
theorem unpackF_words (w : Word) : (unpackF w).map (·.setWidth 36) =
    [w >>> 30 &&& 0o77, w >>> 24 &&& 0o77, w >>> 18 &&& 0o77, w >>> 12 &&& 0o77, w >>> 6 &&& 0o77, w &&& 0o77] := by
  simp [unpackF, extract_setWidth_eq_and]

/-- Settles O34: the group at `rd` takes the word's fields in order. -/
theorem unpackResult : Obligations.UnpackResult := by
  intro s rd ra w
  refine ⟨fun hrd => ?ascii, fun hrd => ?fieldata⟩
  case ascii =>
    have h : exec (.unpka rd ra) s = .next (s.setGroup rd ((unpackA w).map (·.setWidth 36))) :=
      if_pos (groupOK_iff.2 hrd)
    rw [unpackA_words] at h
    simpa using completesTo_setGroup h hrd
  case fieldata =>
    have h : exec (.unpkf rd ra) s = .next (s.setGroup rd ((unpackF w).map (·.setWidth 36))) :=
      if_pos (groupOK_iff.2 hrd)
    rw [unpackF_words] at h
    simpa using completesTo_setGroup h hrd

end Sys2Proof.Machine
end

section
/-! Strings as words and back (R186 to R188, R198). -/

namespace Sys2Proof.Machine

/-! Words of codes and back -/

/-- A word packed from codes and unpacked gives as many codes as it holds, the pad where there is none (R184). -/
theorem unpackA_packA (cs : List (BitVec 9)) : unpackA (packA cs) = (List.range 4).map (cs.getD · asciiPad) := by
  simp only [unpackA, packA, extract_or]
  simp [extract_place_self, extract_place_above, extract_place_below, List.range_succ]

/-- The same with six codes to the word (R185). -/
theorem unpackF_packF (cs : List (BitVec 6)) : unpackF (packF cs) = (List.range 6).map (cs.getD · fieldataPad) := by
  simp only [unpackF, packF, extract_or]
  simp [extract_place_self, extract_place_above, extract_place_below, List.range_succ]

theorem length_packWords {w : Nat} (pack : List (BitVec w) → Word) (n W : Nat) (cs : List (BitVec w)) :
    (packWords pack n W cs).length = W := by
  induction W generalizing cs with
  | zero => rfl
  | succ W ih => rw [packWords, List.length_cons, ih]

/-- Each word takes `n` codes and leaves the others to the words after it. -/
theorem flatMap_packWords {w n : Nat} {pack : List (BitVec w) → Word} {unpack : Word → List (BitVec w)} {pad : BitVec w}
    (hword : ∀ cs, unpack (pack cs) = (List.range n).map (cs.getD · pad)) (W : Nat) (cs : List (BitVec w)) :
    (packWords pack n W cs).flatMap unpack = (List.range (n * W)).map (cs.getD · pad) := by
  induction W generalizing cs with
  | zero => rfl
  | succ W ih =>
    have hfirst : (List.range n).map ((cs.take n).getD · pad) = (List.range n).map (cs.getD · pad) :=
      List.map_congr_left fun i hi => by
        simp [List.getD_eq_getElem?_getD, List.getElem?_take_of_lt (List.mem_range.1 hi)]
    have hrest : (fun i => (cs.drop n).getD i pad) = fun i => cs.getD (n + i) pad := by
      funext i
      simp [List.getD_eq_getElem?_getD]
    rw [packWords, List.flatMap_cons, hword, ih, hfirst, hrest, Nat.mul_succ, Nat.add_comm, List.range_add,
      List.map_append, List.map_map]
    rfl

/-- Reading a list past its end is padding it. -/
theorem map_getD_range {α : Type} (cs : List α) (pad : α) (m : Nat) :
    (List.range m).map (cs.getD · pad) = (cs ++ List.replicate m pad).take m := by
  refine List.ext_getElem (by simp) fun i hi _ => ?_
  have him : i < m := by simpa using hi
  by_cases h : i < cs.length
  · simp [h]
  · have hsub : i - cs.length < m := by omega
    simp [h, List.getElem_append]

/-- Text coded into words of `n` codes and displayed again: padded or cut, and each character as its code displays. -/
theorem display_packWords {w n : Nat} {pack : List (BitVec w) → Word} {unpack : Word → List (BitVec w)} {pad : BitVec w}
    (hword : ∀ cs, unpack (pack cs) = (List.range n).map (cs.getD · pad)) {code : Char → BitVec w}
    (hpad : code ' ' = pad) (display : BitVec w → Char) (cs : List Char) (W : Nat) :
    ((packWords pack n W (cs.map code)).flatMap unpack).map display =
      ((cs ++ List.replicate (n * W) ' ').take (n * W)).map fun c => display (code c) := by
  rw [flatMap_packWords hword, map_getD_range, ← hpad, ← List.map_replicate, ← List.map_append, ← List.map_take,
    List.map_map]
  rfl

/-! ASCII (R186) -/

theorem toAsciiWords_narrow {cs : List Char} (h : ∀ c ∈ cs, c.toNat ≤ 0o777) (W : Nat) :
    toAsciiWords cs W = .ok (packWords packA 4 W (cs.map fun c => BitVec.ofNat 9 c.toNat)) := by
  have hnone : firstWide cs = none := by
    simpa [firstWide] using h
  rw [toAsciiWords, hnone]

theorem toAsciiWords_wide {cs : List Char} {c : Char} (hc : c ∈ cs) (hwide : 0o777 < c.toNat) (W : Nat) :
    ∃ n, 0o777 < n ∧ toAsciiWords cs W = .error (.wideCharacter n) := by
  rw [toAsciiWords]
  cases hf : firstWide cs with
  | some d =>
    rw [firstWide] at hf
    exact ⟨d.toNat, by simpa using List.find?_some hf, rfl⟩
  | none => exact absurd (decide_eq_true hwide) (List.find?_eq_none.1 hf c hc)

/-- A character of at most 9 bits is its own code. -/
theorem ofNat_asciiCode {c : Char} (h : c.toNat ≤ 0o777) : Char.ofNat (BitVec.ofNat 9 c.toNat).toNat = c := by
  have hmod : c.toNat % 2 ^ 9 = c.toNat := Nat.mod_eq_of_lt (by omega)
  rw [BitVec.toNat_ofNat, hmod, Char.ofNat_toNat]

theorem fromAsciiWords_packWords {cs : List Char} (h : ∀ c ∈ cs, c.toNat ≤ 0o777) (W : Nat) :
    fromAsciiWords (packWords packA 4 W (cs.map fun c => BitVec.ofNat 9 c.toNat)) =
      (cs ++ List.replicate (4 * W) ' ').take (4 * W) := by
  refine (display_packWords unpackA_packA rfl _ cs W).trans ?_
  refine (List.map_congr_left fun c hc => ?_).trans (List.map_id _)
  rcases List.mem_append.1 (List.mem_of_mem_take hc) with hc | hc
  · exact ofNat_asciiCode (h c hc)
  · rw [List.eq_of_mem_replicate hc]
    rfl

/-! Fieldata (R187, R198) -/

/-- The table gives a character back from its code, and the space for a character it does not hold. -/
theorem fieldataChar_fieldataCode (c : Char) :
    fieldataChar (fieldataCode c) = if c ∈ fieldataTable then c else ' ' := by
  rw [fieldataCode]
  cases hf : fieldataTable.findIdx? (· = c) with
  | some i =>
    obtain ⟨hi, hc, -⟩ := List.findIdx?_eq_some_iff_getElem.1 hf
    have hchar : fieldataTable[i] = c := of_decide_eq_true hc
    have hmod : i % 2 ^ 6 = i := Nat.mod_eq_of_lt hi
    rw [if_pos (hchar ▸ List.getElem_mem hi)]
    change fieldataTable.getD (i % 2 ^ 6) ' ' = c
    rw [hmod, List.getD_eq_getElem _ _ hi, hchar]
  | none =>
    have hc : c ∉ fieldataTable := fun hc => of_decide_eq_false (List.findIdx?_eq_none_iff.1 hf c hc) rfl
    rw [if_neg hc]
    rfl

/-- Settles O35: both conversions code, pack, unpack and display each character in its place. -/
theorem stringConversions : Obligations.StringConversions := by
  intro cs W
  refine ⟨fun h => ⟨_, toAsciiWords_narrow h W, length_packWords _ _ _ _, fromAsciiWords_packWords h W⟩,
    fun ⟨c, hc, hwide⟩ => toAsciiWords_wide hc hwide W, length_packWords _ _ _ _, ?fieldata⟩
  case fieldata =>
    refine (display_packWords unpackF_packF rfl _ cs W).trans ?_
    simp only [fieldataChar_fieldataCode]

end Sys2Proof.Machine
end

section
/-! Violations: a translation that fails its limits or permission check ends the command (R245 to R252). -/

namespace Sys2Proof.Machine

/-! The checks that fail -/

/-- A range outside the limits, whatever the permissions are (R248, R249, R252). -/
theorem translate_outside {s : State} {k : BrNum} {v : Word} {n : Nat} (it : Intent) (hn : 0 < n)
    (hl : ¬inLimits (s.b k) v.toNat n) :
    translate s k v.toNat n it = .error (.refViol .limits (decide (it = .fetch)) k v) := by
  rw [translate_limits (limitsOK_false hn hl), limitsViolation, BitVec.ofNat_toNat, BitVec.setWidth_eq]

/-- A range within the limits under a set that does not grant the intent (R246, R249). -/
theorem translate_forbidden {s : State} {k : BrNum} {v : Word} {n : Nat} {it : Intent} (hn : 0 < n)
    (hl : inLimits (s.b k) v.toNat n) (hp : permOK (selectedPerms (s.b k) s.key) it = false) :
    translate s k v.toNat n it =
      .error (.refViol (if it = .write then .write else .read) (decide (it = .fetch)) k v) := by
  rw [translate_denied ((limitsOK_iff hn).2 hl) ((selectPerm_eq (s.b k) s.key).symm ▸ hp), BitVec.ofNat_toNat,
    BitVec.setWidth_eq]

/-! The commands that translate -/

/-- The command translates `n` words from relative address `v` on for `it`, and ends in the fault of that
translation. -/
def FaultsByTranslation (i : Instr) (s : State) (k : BrNum) (v : Word) (n : Nat) (it : Intent) : Prop :=
  ∀ f, translate s k v.toNat n it = .error f → exec i s = .fault f

section Forms

variable {s : State} {ra : GrsAddr} {k : BrNum}

theorem ld_faultsByTranslation (rd : GrsAddr) : FaultsByTranslation (.ld rd ra k) s k (s.x ra) 1 .read := by
  intro f h
  change execLd rd ra k s = _
  rw [execLd, h]
  rfl

theorem storeAt_of_error {rel : Nat} {ws : List Word} {f : Fault}
    (h : translate s k rel ws.length .write = .error f) : storeAt k rel ws s = .fault f := by
  rw [storeAt, h]
  rfl

theorem st_faultsByTranslation (rb : GrsAddr) : FaultsByTranslation (.st ra rb k) s k (s.x ra) 1 .write :=
  fun _ h => storeAt_of_error (ws := [s.x rb]) h

theorem dld_faultsByTranslation {rd : GrsAddr} (hrd : rd.toNat + 2 ≤ 128) :
    FaultsByTranslation (.dld rd ra k) s k (s.x ra) 2 .read := by
  intro f h
  change execDld rd ra k s = _
  rw [execDld, if_pos (groupOK_iff.2 hrd), h]
  rfl

theorem dst_faultsByTranslation {rb : GrsAddr} (hrb : rb.toNat + 2 ≤ 128) :
    FaultsByTranslation (.dst ra rb k) s k (s.x ra) 2 .write := fun _ h =>
  (if_pos (groupOK_iff.2 hrb)).trans (storeAt_of_error (ws := [s.x rb, s.x (grsPlus rb 1)]) h)

theorem translateInto_of_error {rd : GrsAddr} {rel n : Nat} {it : Intent} {f : Fault}
    (h : translate s k rel n it = .error f) : translateInto rd k rel n it s = .fault f := by
  rw [translateInto, h]
  rfl

theorem xlt_faultsByTranslation {rd : GrsAddr} {intent : BitVec 2} {it : Intent} (hit : intentOf intent = some it)
    (hrd : rd.toNat + 2 ≤ 128) : FaultsByTranslation (.xlt rd ra k intent) s k (s.x ra) 1 it := by
  intro f h
  change execXlt rd ra k intent s = _
  rw [execXlt, hit]
  exact (if_pos (groupOK_iff.2 hrd)).trans (translateInto_of_error h)

theorem xltn_faultsByTranslation {rd rb : GrsAddr} {intent : BitVec 2} {it : Intent} (hit : intentOf intent = some it)
    (hrd : rd.toNat + 2 ≤ 128) (hcount : (s.x rb).toNat ≠ 0) :
    FaultsByTranslation (.xltn rd ra rb k intent) s k (s.x ra) (s.x rb).toNat it := by
  intro f h
  have hlegal : (groupOK rd 2 && decide ((s.x rb).toNat ≠ 0)) = true := by
    rw [groupOK_iff.2 hrd, decide_eq_true hcount]
    rfl
  change execXltn rd ra rb k intent s = _
  rw [execXltn, hit]
  exact (if_pos hlegal).trans (translateInto_of_error h)

end Forms

/-- Which intent a legal intent field names: 0 a fetch, 2 a write (R85). -/
theorem intentOf_iff {intent : BitVec 2} (h : intent ≠ 3) : ∃ it, intentOf intent = some it ∧
    decide (it = .fetch) = decide (intent = 0) ∧ (it = .write ↔ intent = 2) := by
  have hcases : ∀ intent : BitVec 2, intent ≠ 3 → intent = 0 ∨ intent = 1 ∨ intent = 2 := by decide
  rcases hcases intent h with rfl | rfl | rfl
  · exact ⟨.fetch, rfl, rfl, by decide⟩
  · exact ⟨.read, rfl, rfl, by decide⟩
  · exact ⟨.write, rfl, rfl, by decide⟩

/-- A write needs the write bit, a read and a fetch the read bit (R246). -/
theorem permOK_eq (p : AccessPerms) (it : Intent) : permOK p it = if it = .write then p.write else p.read := by
  cases it <;> rfl

/-- Settles O41: each form ends in the fault of its translation, which looks at the limits before the permissions. -/
theorem limitsCheckedFirst : Obligations.LimitsCheckedFirst := by
  intro s rd ra rb k intent b rel violation
  have outside {i : Instr} {n : Nat} {it : Intent} (hi : FaultsByTranslation i s k (s.x ra) n it) (hn : 0 < n)
      (hl : ¬inLimits b rel n) : exec i s = violation (decide (it = .fetch)) := hi _ (translate_outside it hn hl)
  refine ⟨fun hl => ⟨?ld, ?st, fun hintent hrd => ?xlt⟩, fun hl => ⟨fun hrd => ?dld, fun hrb => ?dst⟩,
    fun hl hintent hrd hcount => ?xltn⟩
  case ld => exact outside (ld_faultsByTranslation rd) Nat.one_pos hl
  case st => exact outside (st_faultsByTranslation rb) Nat.one_pos hl
  case xlt =>
    obtain ⟨it, hit, hfetch, -⟩ := intentOf_iff hintent
    rw [← hfetch]
    exact outside (xlt_faultsByTranslation hit hrd) Nat.one_pos hl
  case dld => exact outside (dld_faultsByTranslation hrd) Nat.two_pos hl
  case dst => exact outside (dst_faultsByTranslation hrb) Nat.two_pos hl
  case xltn =>
    obtain ⟨it, hit, hfetch, -⟩ := intentOf_iff hintent
    rw [← hfetch]
    have hn : (s.x rb).toNat ≠ 0 := BitVec.toNat_ne.1 hcount
    exact outside (xltn_faultsByTranslation hit hrd hn) (Nat.pos_of_ne_zero hn) hl

/-- Settles O42: within the limits the translation comes to the permission check of its intent. -/
theorem permissionViolation : Obligations.PermissionViolation := by
  intro s rd ra rb k intent b rel p noRead noWrite
  have forbidden {i : Instr} {n : Nat} {it : Intent} (hi : FaultsByTranslation i s k (s.x ra) n it) (hn : 0 < n)
      (hp : permOK p it = false) (hl : inLimits b rel n) : exec i s =
        .fault (.refViol (if it = .write then .write else .read) (decide (it = .fetch)) k (s.x ra)) :=
    hi _ (translate_forbidden hn hl hp)
  refine ⟨fun hp => ⟨?ld, fun hl hrd => ?dld⟩, fun hp => ⟨?st, fun hl hrb => ?dst⟩, fun hintent hrd hp => ?xlt⟩
  case ld => exact forbidden (ld_faultsByTranslation rd) Nat.one_pos hp
  case dld => exact forbidden (dld_faultsByTranslation hrd) Nat.two_pos hp hl
  case st => exact forbidden (st_faultsByTranslation rb) Nat.one_pos hp
  case dst => exact forbidden (dst_faultsByTranslation hrb) Nat.two_pos hp hl
  case xlt =>
    obtain ⟨it, hit, hfetch, hwrite⟩ := intentOf_iff hintent
    have hdenied : permOK p it = false := by rwa [permOK_eq, ite_cond_congr (propext hwrite)]
    simp only [← hwrite, ← hfetch]
    refine ⟨forbidden (xlt_faultsByTranslation hit hrd) Nat.one_pos hdenied, fun hcount => ?_⟩
    have hn : (s.x rb).toNat ≠ 0 := BitVec.toNat_ne.1 hcount
    exact forbidden (xltn_faultsByTranslation hit hrd hn) (Nat.pos_of_ne_zero hn) hdenied

end Sys2Proof.Machine
end

section
/-! BASEBD's faults in their order (R226, R240, R241, R261). -/

namespace Sys2Proof.Machine

theorem wordL_eq (v : Word) : wordL v = BitVec.ofNat 3 (v.toNat / 2 ^ 33) := by
  apply BitVec.eq_of_toNat_eq
  rw [wordL, extract_toNat, BitVec.toNat_ofNat]

theorem wordBDI_eq (v : Word) : wordBDI v = BitVec.ofNat 15 (v.toNat / 2 ^ 18) := by
  apply BitVec.eq_of_toNat_eq
  rw [wordBDI_toNat, BitVec.toNat_ofNat]

/-- The table register of a level (R240). -/
theorem bdtBr_eq (l : BitVec 3) : bdtBr l = BitVec.ofNat 5 (16 + l.toNat) := by
  revert l
  decide

theorem invalidLBDI_eq (l : BitVec 3) (bdi : BitVec 15) : invalidLBDI l bdi = decide (l = 0 ∧ bdi.toNat < 32) :=
  (Bool.decide_and _ _).symm

section Basebd

variable {s : State} {ra : GrsAddr} {l : BitVec 3} {bdi : BitVec 15}

theorem execBasebd_invalid (rb : GrsAddr) (k : BrNum) (hL : wordL (s.x ra) = l) (hBDI : wordBDI (s.x ra) = bdi)
    (hv : invalidLBDI l bdi = true) : execBasebd ra rb k s = .fault (addressingFault s .invalidLBDI l bdi) := by
  rw [execBasebd, hL, hBDI]
  exact if_pos hv

theorem execBasebd_outside (rb : GrsAddr) (k : BrNum) (hL : wordL (s.x ra) = l) (hBDI : wordBDI (s.x ra) = bdi)
    (hv : invalidLBDI l bdi = false) (hl : ¬inLimits (s.b (bdtBr l)) (8 * bdi.toNat) 8) :
    execBasebd ra rb k s = .fault (addressingFault s .outsideTable l bdi) := by
  rw [execBasebd, hL, hBDI, hv, limitsOK_false (by omega) hl]
  rfl

/-- The general-fault flag is bit 23 of the first word read (R220, R226). -/
theorem execBasebd_generalFault (rb : GrsAddr) (k : BrNum) (hL : wordL (s.x ra) = l) (hBDI : wordBDI (s.x ra) = bdi)
    (hv : invalidLBDI l bdi = false) (hl : inLimits (s.b (bdtBr l)) (8 * bdi.toNat) 8)
    (hs : allPresent s (descriptorAddr s l bdi) 8) (hg : (s.readWord 0 (descriptorAddr s l bdi)).getLsbD 23 = true) :
    execBasebd ra rb k s = .fault (addressingFault s .generalFault l bdi) := by
  rw [execBasebd, hL, hBDI, hv, (limitsOK_iff (by omega)).2 hl, memRead_present hs]
  change (if (decodeBD _).g = true then _ else _) = _
  exact if_pos hg

end Basebd

/-- Settles O51: one check after the other, each with the fault that DR selects. -/
theorem baseBankFaults : Obligations.BaseBankFaults := by
  intro s ra rb k l bdi table a fault
  have hL : wordL (s.x ra) = l := wordL_eq (s.x ra)
  have hBDI : wordBDI (s.x ra) = bdi := wordBDI_eq (s.x ra)
  have htable : s.b (bdtBr l) = table := congrArg s.b (bdtBr_eq l)
  have ha : descriptorAddr s l bdi = a := by rw [descriptorAddr, htable]
  have hvalid := invalidLBDI_eq l bdi
  split
  · next h => exact execBasebd_invalid rb k hL hBDI (hvalid.trans (decide_eq_true h))
  · next h =>
    have hv : invalidLBDI l bdi = false := hvalid.trans (decide_eq_false h)
    exact ⟨fun hl => execBasebd_outside rb k hL hBDI hv (htable ▸ hl), fun hl hs hg =>
      execBasebd_generalFault rb k hL hBDI hv (htable ▸ hl) (ha ▸ hs) (ha ▸ hg)⟩

end Sys2Proof.Machine
end

section
/-! Bank Descriptors and packets: decoding and encoding are inverse (R97 to R103, R220 to R224, R231 to R234). -/

namespace Sys2Proof.Machine

/-! Fields read out of a word and put back -/

/-- A field put back where it was read is the word's bits there. -/
theorem place_extract {n : Nat} (v : BitVec n) (q m : Nat) :
    place n (v.extractLsb' q m) q = v &&& place n (BitVec.allOnes m) q := by
  apply BitVec.eq_of_getLsbD_eq
  intro i hi
  rw [BitVec.getLsbD_and, getLsbD_place, getLsbD_place, getLsbD_extract, BitVec.getLsbD_allOnes]
  by_cases hq : i < q
  · simp [hq]
  · rw [Nat.add_sub_cancel' (Nat.not_lt.1 hq), Bool.and_comm (v.getLsbD i), Bool.and_assoc, Bool.and_assoc,
      Bool.and_assoc]

/-- One bit is a field of width 1. -/
theorem ofBool_getLsbD (w : Word) (n : Nat) : BitVec.ofBool (w.getLsbD n) = w.extractLsb' n 1 := by
  apply BitVec.eq_of_getLsbD_eq
  intro i hi
  obtain rfl : i = 0 := by omega
  simp

theorem getLsbD_of_extract {w : Word} {n : Nat} {b : Bool} (h : w.extractLsb' n 1 = BitVec.ofBool b) :
    w.getLsbD n = b := by
  simpa using congrArg (BitVec.getLsbD · 0) h

/-- The permissions of a field of three bits (R97). -/
def permsOf (f : BitVec 3) : AccessPerms := ⟨f.getLsbD 2, f.getLsbD 1, f.getLsbD 0⟩

theorem permsAt_eq (w : Word) (n : Nat) : permsAt w (n + 2) = permsOf (w.extractLsb' n 3) := by
  simp [permsAt, permsOf]

theorem permBits_permsOf (f : BitVec 3) : permBits (permsOf f) = f := by
  revert f
  decide

theorem permsOf_permBits (p : AccessPerms) : permsOf (permBits p) = p := by
  obtain ⟨e, r, w⟩ := p
  revert e r w
  decide

theorem permBits_permsAt (w : Word) (n : Nat) : permBits (permsAt w (n + 2)) = w.extractLsb' n 3 := by
  rw [permsAt_eq, permBits_permsOf]

theorem permsAt_of_extract {w : Word} {n : Nat} {p : AccessPerms} (h : w.extractLsb' n 3 = permBits p) :
    permsAt w (n + 2) = p := by
  rw [permsAt_eq, h, permsOf_permBits]

theorem accessInfo_of_extract {w : Word} {a : AccessInfo} (hring : w.extractLsb' 16 2 = a.ring)
    (hdomain : w.extractLsb' 0 16 = a.domain) : accessInfo (w.extractLsb' 0 18) = a := by
  rw [accessInfo_extract, hring, hdomain]

/-! The words that Bank Descriptors and packets share -/

/-- The bits of a first word that the access word holds (R97, R102). -/
def accessMask : Word := 0o770020_777777

/-- The access word of what a word's access fields hold is the word without its other bits. -/
theorem accessWord_of_word (w : Word) : accessWord (permsAt w 35) (permsAt w 32) (accessInfo (w.extractLsb' 0 18))
    (w.getLsbD 22) = w &&& accessMask := by
  have hgap : permBits (permsAt w 35) = w.extractLsb' 33 3 := permBits_permsAt w 33
  have hsap : permBits (permsAt w 32) = w.extractLsb' 30 3 := permBits_permsAt w 30
  rw [accessWord, hgap, hsap, accessInfo_extract, ofBool_getLsbD]
  simp only [place_extract, ← BitVec.and_or_distrib_left]
  rfl

theorem limitsWord_of_word (w : Word) : limitsWord (w.extractLsb' 27 9) (w.extractLsb' 0 27) = w := by
  rw [limitsWord, place_extract, place_extract, ← BitVec.and_or_distrib_left]
  exact BitVec.and_allOnes

theorem lowerField_limitsWord (ll : BitVec 9) (ul : BitVec 27) : (limitsWord ll ul).extractLsb' 27 9 = ll := by
  rw [limitsWord, extract_or, extract_place_self ll 27 (by omega), extract_place_below ul 0 27 9 (by omega)]
  exact BitVec.or_zero

theorem upperField_limitsWord (ll : BitVec 9) (ul : BitVec 27) : (limitsWord ll ul).extractLsb' 0 27 = ul := by
  rw [limitsWord, extract_or, extract_place_above ll 27 0 27 (by omega), extract_place_self ul 0 (by omega)]
  exact BitVec.zero_or

/-- An address survives its two words where its offset fits the second (R101). -/
theorem decodeAbs_absWords {a : AbsAddr} (h : a.off < 2 ^ 36) : decodeAbs (absWordA a) (absWordB a) = a := by
  have hupi : (absWordA a).extractLsb' 18 18 = a.upi := by
    rw [absWordA, extract_or, extract_place_self a.upi 18 (by omega), extract_place_below a.seg 0 18 18 (by omega)]
    exact BitVec.or_zero
  have hseg : (absWordA a).extractLsb' 0 18 = a.seg := by
    rw [absWordA, extract_or, extract_place_above a.upi 18 0 18 (by omega), extract_place_self a.seg 0 (by omega)]
    exact BitVec.zero_or
  rw [decodeAbs, hupi, hseg, absWordB, BitVec.toNat_ofNat, Nat.mod_eq_of_lt h]

theorem absWordA_decodeAbs (wa wb : Word) : absWordA (decodeAbs wa wb) = wa := by
  rw [absWordA, decodeAbs, place_extract, place_extract, ← BitVec.and_or_distrib_left]
  exact BitVec.and_allOnes

theorem absWordB_decodeAbs (wa wb : Word) : absWordB (decodeAbs wa wb) = wb := by
  rw [absWordB, decodeAbs, BitVec.ofNat_toNat, BitVec.setWidth_eq]

/-! Bank Descriptors (R220 to R224) -/

/-- The first word of an encoded Bank Descriptor (R95, R97, R222). -/
def descriptorWord (r : BankDescriptor) : Word :=
  accessWord r.gap r.sap r.lock r.s ||| place 36 r.type 24 ||| place 36 (BitVec.ofBool r.g) 23 |||
    place 36 (BitVec.ofBool r.u) 21

theorem encodeBD_eq (r : BankDescriptor) : encodeBD r = #v[descriptorWord r, limitsWord r.ll r.ul, absWordA r.abs,
    absWordB r.abs, r.ext[0], r.ext[1], r.ext[2], r.ext[3]] := rfl

/-- Each field stands in its own bits of the first word. -/
theorem extract_descriptorWord (r : BankDescriptor) :
    (descriptorWord r).extractLsb' 33 3 = permBits r.gap ∧ (descriptorWord r).extractLsb' 30 3 = permBits r.sap ∧
    (descriptorWord r).extractLsb' 24 4 = r.type ∧ (descriptorWord r).extractLsb' 23 1 = BitVec.ofBool r.g ∧
    (descriptorWord r).extractLsb' 22 1 = BitVec.ofBool r.s ∧ (descriptorWord r).extractLsb' 21 1 = BitVec.ofBool r.u ∧
    (descriptorWord r).extractLsb' 16 2 = r.lock.ring ∧ (descriptorWord r).extractLsb' 0 16 = r.lock.domain := by
  simp (disch := omega) only [descriptorWord, accessWord, extract_or, extract_place_self, extract_place_above,
    extract_place_below, BitVec.ofNat_eq_ofNat, BitVec.or_zero, BitVec.zero_or, and_self]

theorem decodeBD_encodeBD {r : BankDescriptor} (h : r.abs.off < 2 ^ 36) : decodeBD (encodeBD r) = r := by
  obtain ⟨hgap, hsap, htype, hg, hs, hu, hring, hdomain⟩ := extract_descriptorWord r
  have hext : #v[r.ext[0], r.ext[1], r.ext[2], r.ext[3]] = r.ext := by
    ext i hi
    interval_cases i <;> rfl
  calc decodeBD (encodeBD r)
    _ = ⟨permsAt (descriptorWord r) 35, permsAt (descriptorWord r) 32, (descriptorWord r).extractLsb' 24 4,
        (descriptorWord r).getLsbD 23, (descriptorWord r).getLsbD 22, (descriptorWord r).getLsbD 21,
        accessInfo ((descriptorWord r).extractLsb' 0 18), (limitsWord r.ll r.ul).extractLsb' 27 9,
        (limitsWord r.ll r.ul).extractLsb' 0 27, decodeAbs (absWordA r.abs) (absWordB r.abs),
        #v[r.ext[0], r.ext[1], r.ext[2], r.ext[3]]⟩ := rfl
    _ = r := by
      rw [permsAt_of_extract (n := 33) hgap, permsAt_of_extract (n := 30) hsap, htype, getLsbD_of_extract hg,
        getLsbD_of_extract hs, getLsbD_of_extract hu, accessInfo_of_extract hring hdomain, lowerField_limitsWord,
        upperField_limitsWord, decodeAbs_absWords h, hext]

/-- The reserved bits of a Bank Descriptor's first word (R96, R224). -/
def reservedBits : Word := 0o006007_000000

/-- The first word of a decoded Bank Descriptor is the one decoded, its reserved bits cleared (R223). -/
theorem descriptorWord_decodeBD (w : Vector Word 8) : descriptorWord (decodeBD w) = w[0] &&& ~~~reservedBits := by
  change accessWord (permsAt w[0] 35) (permsAt w[0] 32) (accessInfo (w[0].extractLsb' 0 18)) (w[0].getLsbD 22) |||
    place 36 (w[0].extractLsb' 24 4) 24 ||| place 36 (BitVec.ofBool (w[0].getLsbD 23)) 23 |||
    place 36 (BitVec.ofBool (w[0].getLsbD 21)) 21 = _
  simp only [accessWord_of_word, ofBool_getLsbD, place_extract, ← BitVec.and_or_distrib_left]
  rfl

theorem encodeBD_decodeBD (w : Vector Word 8) : encodeBD (decodeBD w) = w.set 0 (w[0] &&& ~~~reservedBits) := by
  have hlimits : limitsWord (decodeBD w).ll (decodeBD w).ul = w[1] := limitsWord_of_word w[1]
  have hA : absWordA (decodeBD w).abs = w[2] := absWordA_decodeAbs w[2] w[3]
  have hB : absWordB (decodeBD w).abs = w[3] := absWordB_decodeAbs w[2] w[3]
  rw [encodeBD_eq, descriptorWord_decodeBD, hlimits, hA, hB]
  refine Vector.ext fun i hi => ?_
  cases i with
  | zero => exact (Vector.getElem_set_self (Nat.succ_pos 7)).symm
  | succ i =>
    rw [Vector.getElem_set_ne (Nat.succ_pos 7) hi (Nat.succ_ne_zero i).symm]
    have hi7 : i < 7 := Nat.lt_of_succ_lt_succ hi
    interval_cases i <;> rfl

/-- Settles O49: the reserved bits do not reach the record, since the words without them are the record's own. -/
theorem bankDescriptorRoundTrip : Obligations.BankDescriptorRoundTrip := by
  refine ⟨fun r => decodeBD_encodeBD, fun w => ⟨encodeBD_decodeBD w, ?_⟩⟩
  have hoff : (decodeBD w).abs.off < 2 ^ 36 := w[3].isLt
  exact (congrArg decodeBD (encodeBD_decodeBD w)).symm.trans (decodeBD_encodeBD hoff)

/-! Packets (R102, R103, R231 to R234) -/

/-- Each field stands in its own bits of the access word, and the void flag's bit is clear (R102). -/
theorem extract_accessWord (gap sap : AccessPerms) (lock : AccessInfo) (large : Bool) :
    (accessWord gap sap lock large).extractLsb' 33 3 = permBits gap ∧
    (accessWord gap sap lock large).extractLsb' 30 3 = permBits sap ∧
    (accessWord gap sap lock large).extractLsb' 22 1 = BitVec.ofBool large ∧
    (accessWord gap sap lock large).extractLsb' 20 1 = BitVec.ofBool false ∧
    (accessWord gap sap lock large).extractLsb' 16 2 = lock.ring ∧
    (accessWord gap sap lock large).extractLsb' 0 16 = lock.domain := by
  simp (disch := omega) only [accessWord, extract_or, extract_place_self, extract_place_above,
    extract_place_below, BitVec.ofNat_eq_ofNat, BitVec.or_zero, BitVec.zero_or, and_self]
  decide

theorem lowerUnit_pos (large : Bool) : 0 < lowerUnit large := by cases large <;> decide

/-- The lower-limit field of a packet (R232), and the limit it stands for. -/
theorem lowerField_normLower (large : Bool) (ll : BitVec 9) :
    BitVec.ofNat 9 (normLower large ll / lowerUnit large) = ll := by
  rw [normLower, Nat.mul_div_cancel _ (lowerUnit_pos large), BitVec.ofNat_toNat, BitVec.setWidth_eq]

theorem normLower_lowerField {large : Bool} {lower : Nat} (hunit : lower % lowerUnit large = 0)
    (hfits : lower / lowerUnit large < 2 ^ 9) : normLower large (BitVec.ofNat 9 (lower / lowerUnit large)) = lower := by
  rw [normLower, BitVec.toNat_ofNat, Nat.mod_eq_of_lt hfits, Nat.div_mul_cancel (Nat.dvd_of_mod_eq_zero hunit)]

/-- The upper-limit field of a packet (R232). -/
def upperField (large : Bool) (upper : Nat) : BitVec 27 := BitVec.ofNat 27 (if large then upper / 64 else upper)

theorem upperField_normUpper (large : Bool) (ul : BitVec 27) : upperField large (normUpper large ul) = ul := by
  have hlast : (ul.toNat * 64 + 63) / 64 = ul.toNat := by omega
  have hnat : BitVec.ofNat 27 ul.toNat = ul := by rw [BitVec.ofNat_toNat, BitVec.setWidth_eq]
  cases large with
  | false => exact hnat
  | true => exact (congrArg (BitVec.ofNat 27) hlast).trans hnat

theorem normUpper_upperField {large : Bool} {upper : Nat}
    (h : if large then upper % 64 = 63 ∧ upper / 64 < 2 ^ 27 else upper < 2 ^ 27) :
    normUpper large (upperField large upper) = upper := by
  cases large with
  | false => exact Nat.mod_eq_of_lt h
  | true =>
    obtain ⟨hlast, hfits⟩ := h
    change upper / 64 % 2 ^ 27 * 64 + 63 = upper
    omega

theorem encodePacket_of_based {b : BaseReg} (h : b.void = false) : encodePacket b =
    [accessWord b.gap b.sap b.lock b.large,
      limitsWord (BitVec.ofNat 9 (b.lower / lowerUnit b.large)) (upperField b.large b.upper), absWordA b.base,
      absWordB b.base] := by
  rw [encodePacket, h]
  rfl

/-- A packet without the void flag and without inverted limits describes a based register (R231). -/
theorem decodePacket_based {p0 p1 : Word} (p2 p3 : Word) (hvoid : p0.getLsbD 20 = false)
    (hl : normLower (p0.getLsbD 22) (p1.extractLsb' 27 9) ≤ normUpper (p0.getLsbD 22) (p1.extractLsb' 0 27)) :
    decodePacket p0 p1 p2 p3 =
      ⟨false, decodeAbs p2 p3, p0.getLsbD 22, normLower (p0.getLsbD 22) (p1.extractLsb' 27 9),
        normUpper (p0.getLsbD 22) (p1.extractLsb' 0 27), accessInfo (p0.extractLsb' 0 18), permsAt p0 35,
        permsAt p0 32⟩ := by
  refine if_neg ?_
  rintro (h | h)
  · exact absurd (hvoid.symm.trans h) (by decide)
  · exact absurd h (Nat.not_lt.2 hl)

/-- A packet that describes a based register has neither the void flag nor inverted limits. -/
theorem decodePacket_not_void {p0 p1 p2 p3 : Word} (h : (decodePacket p0 p1 p2 p3).void = false) :
    p0.getLsbD 20 = false ∧
      normLower (p0.getLsbD 22) (p1.extractLsb' 27 9) ≤ normUpper (p0.getLsbD 22) (p1.extractLsb' 0 27) := by
  by_contra hno
  rw [not_and_or, Bool.not_eq_false, Nat.not_le] at hno
  have he : decodePacket p0 p1 p2 p3 = BaseReg.canonicalVoid := if_pos hno
  rw [he] at h
  cases h

theorem decodePacket_voidPacket : decodePacket 0o000004_000000 0 0 0 = BaseReg.canonicalVoid := by decide

/-- A based register whose limits and offset a packet can hold survives STBR and LDBR (R233). -/
theorem decodePacket_encodePacket_based {b : BaseReg} (hv : b.void = false) (hlimits : b.lower ≤ b.upper)
    (hunit : b.lower % lowerUnit b.large = 0) (hlower : b.lower / lowerUnit b.large < 2 ^ 9)
    (hupper : if b.large then b.upper % 64 = 63 ∧ b.upper / 64 < 2 ^ 27 else b.upper < 2 ^ 27)
    (hoff : b.base.off < 2 ^ 36) :
    decodePacket (accessWord b.gap b.sap b.lock b.large)
      (limitsWord (BitVec.ofNat 9 (b.lower / lowerUnit b.large)) (upperField b.large b.upper)) (absWordA b.base)
      (absWordB b.base) = b := by
  obtain ⟨hgap, hsap, hlarge, hvoid, hring, hdomain⟩ := extract_accessWord b.gap b.sap b.lock b.large
  have hL := normLower_lowerField hunit hlower
  have hU := normUpper_upperField hupper
  have hlarge := getLsbD_of_extract hlarge
  rw [decodePacket_based _ _ (getLsbD_of_extract hvoid)]
  · rw [hlarge, lowerField_limitsWord, upperField_limitsWord, hL, hU, decodeAbs_absWords hoff,
      accessInfo_of_extract hring hdomain, permsAt_of_extract (n := 33) hgap, permsAt_of_extract (n := 30) hsap, ← hv]
  · rwa [hlarge, lowerField_limitsWord, upperField_limitsWord, hL, hU]

/-- Which base registers survive a store and a load (R233): the void one, and a based one with limits and an offset that
a packet can hold. -/
theorem decodePacket_encodePacket {b : BaseReg} (hb : b.Good)
    (h : b.void = true ∨ (b.lower % lowerUnit b.large = 0 ∧ b.lower / lowerUnit b.large < 2 ^ 9 ∧
      (if b.large then b.upper % 64 = 63 ∧ b.upper / 64 < 2 ^ 27 else b.upper < 2 ^ 27) ∧ b.base.off < 2 ^ 36)) :
    ∃ p0 p1 p2 p3, encodePacket b = [p0, p1, p2, p3] ∧ decodePacket p0 p1 p2 p3 = b := by
  obtain ⟨hinverted, hcanonical⟩ := hb
  cases hv : b.void with
  | true => exact ⟨_, _, _, _, encodePacket_void hv, decodePacket_voidPacket.trans (hcanonical hv).symm⟩
  | false =>
    rw [hv] at h hinverted
    obtain ⟨hunit, hlower, hupper, hoff⟩ := h.resolve_left Bool.false_ne_true
    have hlimits : b.lower ≤ b.upper := Nat.not_lt.1 fun hlt => Bool.false_ne_true (hinverted.2 hlt)
    exact ⟨_, _, _, _, encodePacket_of_based hv, decodePacket_encodePacket_based hv hlimits hunit hlower hupper hoff⟩

/-- The lower limit of a based register that a packet describes is a multiple of its unit (R221). -/
theorem decodePacket_lower_mod {p0 p1 p2 p3 : Word} (h : (decodePacket p0 p1 p2 p3).void = false) :
    (decodePacket p0 p1 p2 p3).lower % lowerUnit (decodePacket p0 p1 p2 p3).large = 0 := by
  obtain ⟨hvoid, hl⟩ := decodePacket_not_void h
  rw [decodePacket_based p2 p3 hvoid hl]
  exact Nat.mul_mod_left _ _

/-- Which packets survive a load and a store (R234): those of a based register without a bit that a packet does not
define. -/
theorem encodePacket_decodePacket {p0 p1 p2 p3 : Word} (hbits : p0 &&& ~~~accessMask = 0)
    (h : (decodePacket p0 p1 p2 p3).void = false) : encodePacket (decodePacket p0 p1 p2 p3) = [p0, p1, p2, p3] := by
  obtain ⟨hvoid, hl⟩ := decodePacket_not_void h
  have hp0 : p0 &&& accessMask = p0 :=
    calc p0 &&& accessMask
      _ = p0 &&& accessMask ||| p0 &&& ~~~accessMask := by rw [hbits]; exact BitVec.or_zero.symm
      _ = p0 := by rw [← BitVec.and_or_distrib_left]; exact BitVec.and_allOnes
  rw [encodePacket_of_based h, decodePacket_based p2 p3 hvoid hl]
  dsimp only
  rw [accessWord_of_word, hp0, lowerField_normLower, upperField_normUpper, limitsWord_of_word, absWordA_decodeAbs,
    absWordB_decodeAbs]

theorem good_of_brOK {b : BaseReg} (h : brOK b = true) : b.Good := by
  rw [brOK, Bool.and_eq_true, decide_eq_true_eq] at h
  obtain ⟨hinverted, hcanonical⟩ := h
  refine ⟨hinverted, fun hv => ?_⟩
  simpa [hv] using hcanonical

/-- Settles O48: the registers and the packets that survive, and why a lower limit off its unit does not. -/
theorem packetRoundTrip : Obligations.PacketRoundTrip := by
  refine ⟨fun b hb => decodePacket_encodePacket (good_of_brOK hb), fun b p0 p1 p2 p3 hv hunit _ he => hunit ?_,
    fun p0 p1 p2 p3 => encodePacket_decodePacket⟩
  subst he
  exact decodePacket_lower_mod hv

end Sys2Proof.Machine
end

section
/-! DISP: the three-level lookup (R270 to R274, R280). -/

namespace Sys2Proof.Machine

theorem oc_natCast (n k : Nat) : oc n (k : Int) = BitVec.ofNat n k := by
  rw [oc, if_pos (Int.natCast_nonneg k), BitVec.ofInt_natCast]

/-- The slot of a table under a number that a field of the instruction word holds. -/
theorem getElem_of_getElem?_toNat {α : Type} {n w i : Nat} {t : Vector α n} {x : α} (v : BitVec w) (hv : v.toNat = i)
    (h : t[i]? = some x) (hn : v.toNat < n) : t[v.toNat] = x := by
  subst hv
  exact (Vector.getElem?_eq_some_iff.1 h).2

section Slots

variable {iw : Word}

theorem getElem_iwF {t : Vector Slot1 64} {x : Slot1} (h : t[iw.toNat / 2 ^ 30]? = some x) :
    t[(iwF iw).toNat]'(iwF iw).isLt = x := by
  have hiw := iw.isLt
  exact getElem_of_getElem?_toNat (iwF iw) ((extract_toNat iw 30 6).trans (Nat.mod_eq_of_lt (by omega))) h _

theorem getElem_iwJ {t : Vector Slot2 16} {x : Slot2} (h : t[iw.toNat / 2 ^ 26 % 2 ^ 4]? = some x) :
    t[(iwJ iw).toNat]'(iwJ iw).isLt = x :=
  getElem_of_getElem?_toNat (iwJ iw) (extract_toNat iw 26 4) h _

theorem getElem_iwA {t : Vector Slot3 16} {x : Slot3} (h : t[iw.toNat / 2 ^ 22 % 2 ^ 4]? = some x) :
    t[(iwA iw).toNat]'(iwA iw).isLt = x :=
  getElem_of_getElem?_toNat (iwA iw) (extract_toNat iw 22 4) h _

end Slots

/-- A lookup that hits delivers the handler id and its charge (R274, R280). -/
theorem completes_disp {s : State} {rd ra : GrsAddr} {h : HandlerId} (hrd : rd.toNat + 2 ≤ 128)
    (hl : lookup (modeTable s) (s.x ra) = some h) : completesTo (.disp rd ra) s
      [(rd, BitVec.ofNat 36 h.val), (grsPlus rd 1, BitVec.ofNat 36 (chargeOf s.cfg.qCharge h).val)] s.stat := by
  have he : execDisp rd ra s = .next ((s.setPair rd
      (dw (BitVec.ofNat 36 h.val) (BitVec.ofNat 36 (chargeOf s.cfg.qCharge h).val))).setStat s.stat) := by
    rw [execDisp, if_pos (groupOK_iff.2 hrd), hl, ← oc_natCast, ← oc_natCast]
    rfl
  simpa only [hi_dw, lo_dw] using completesTo_setPair (i := .disp rd ra) he

/-- A lookup that misses is a fault with the instruction word (R271). -/
theorem execDisp_miss {s : State} {rd ra : GrsAddr} (hrd : rd.toNat + 2 ≤ 128)
    (hl : lookup (modeTable s) (s.x ra) = none) : execDisp rd ra s = .fault (.invalidInstruction (s.x ra)) := by
  rw [execDisp, if_pos (groupOK_iff.2 hrd), hl]
  rfl

/-- Settles O53: a handler or an unpopulated slot ends the lookup at each level, a subtable leads to the next. -/
theorem dispatchResult : Obligations.DispatchResult := by
  intro s rd ra hrd iw tree f j a found missed
  have hit (h : HandlerId) (hl : lookup tree iw = some h) : found h := completes_disp hrd hl
  have miss (hl : lookup tree iw = none) : missed := execDisp_miss hrd hl
  refine ⟨fun h hf => hit h ?_, fun hf => miss ?_, fun t2 hf => ⟨fun h hj => hit h ?_, fun hj => miss ?_,
    fun t3 hj => ⟨fun h ha => hit h ?_, fun ha => miss ?_⟩⟩⟩
  · simp only [lookup, getElem_iwF hf]
  · simp only [lookup, getElem_iwF hf]
  · simp only [lookup, getElem_iwF hf, getElem_iwJ hj]
  · simp only [lookup, getElem_iwF hf, getElem_iwJ hj]
  · simp only [lookup, getElem_iwF hf, getElem_iwJ hj, getElem_iwA ha]
  · simp only [lookup, getElem_iwF hf, getElem_iwJ hj, getElem_iwA ha]

end Sys2Proof.Machine
end

section
/-! RCSCHK and RCSPOP: the frame pointer in EX0, its checks, and the round trip with a push (R275 to R284). -/

namespace Sys2Proof.Machine

/-! Reading a register after a pair of words was written -/

theorem setPair_x_first (s : State) (r : GrsAddr) (v w : Word) : (s.setPair r (dw v w)).x r = v := by
  rw [setPair_x, if_neg (grsPlus_one_ne r).symm, if_pos rfl, hi_dw]

theorem setPair_x_second (s : State) (r : GrsAddr) (v w : Word) : (s.setPair r (dw v w)).x (grsPlus r 1) = w := by
  rw [setPair_x, if_pos rfl, lo_dw]

theorem setPair_x_ne {s : State} {r q : GrsAddr} {d : DWord} (h0 : q ≠ r) (h1 : q ≠ grsPlus r 1) :
    (s.setPair r d).x q = s.x q := by
  rw [setPair_x, if_neg h1, if_neg h0]

/-! The modifier of an index register as a number (R41) -/

theorem xmNat_eq (v : Word) (lay : XLayout) : xmNat v lay = v.toNat % 2 ^ xmWidth lay := truncTo_toNat v lay

theorem withXM_toNat (v : Word) (lay : XLayout) (m : Word) :
    (withXM v lay m).toNat = v.toNat / 2 ^ xmWidth lay * 2 ^ xmWidth lay + m.toNat % 2 ^ xmWidth lay := by
  have hv := v.isLt
  have hwidths : xmWidth lay + xiWidth lay = 36 := by cases lay <;> rfl
  have hxi : v.toNat / 2 ^ xmWidth lay < 2 ^ xiWidth lay :=
    Nat.div_lt_of_lt_mul (by rwa [← Nat.pow_add, hwidths])
  rw [withXM, truncTo, zfield_eq_place, place_or_toNat _ _ hwidths.le, extract_toNat, extract_toNat,
    Nat.mod_eq_of_lt hxi, Nat.pow_zero, Nat.div_one]

theorem withXM_ofNat_toNat (v : Word) (lay : XLayout) (m : Nat) : (withXM v lay (BitVec.ofNat 36 m)).toNat =
    v.toNat / 2 ^ xmWidth lay * 2 ^ xmWidth lay + m % 2 ^ xmWidth lay := by
  have hdvd : 2 ^ xmWidth lay ∣ 2 ^ 36 := Nat.pow_dvd_pow 2 (by cases lay <;> decide)
  rw [withXM_toNat, BitVec.toNat_ofNat, Nat.mod_mod_of_dvd _ hdvd]

/-- Of two modifiers put in one after the other, the second remains. -/
theorem withXM_withXM (v : Word) (lay : XLayout) (m n : Word) : withXM (withXM v lay m) lay n = withXM v lay n := by
  rw [withXM, withXM_xi]
  rfl

/-- A modifier no larger than the old one fits its field. -/
theorem mod_of_le_xmNat {v : Word} {lay : XLayout} {m : Nat} (h : m ≤ xmNat v lay) : m % 2 ^ xmWidth lay = m := by
  rw [xmNat_eq] at h
  exact Nat.mod_eq_of_lt (h.trans_lt (Nat.mod_lt _ (Nat.two_pow_pos _)))

theorem xmNat_withXM {v : Word} {lay : XLayout} {m : Nat} (h : m ≤ xmNat v lay) :
    xmNat (withXM v lay (BitVec.ofNat 36 m)) lay = m := by
  rw [xmNat_eq, withXM_ofNat_toNat, Nat.mul_add_mod', Nat.mod_mod, mod_of_le_xmNat h]

/-- A register whose modifier falls by `n` falls by `n` as a number: no borrow reaches XI. -/
theorem withXM_sub_toNat {v : Word} {lay : XLayout} {n : Nat} (h : n ≤ xmNat v lay) :
    (withXM v lay (BitVec.ofNat 36 (xmNat v lay - n))).toNat = v.toNat - n := by
  have hparts := Nat.div_add_mod' v.toNat (2 ^ xmWidth lay)
  rw [withXM_ofNat_toNat, mod_of_le_xmNat (Nat.sub_le _ n)]
  rw [xmNat_eq] at h ⊢
  omega

/-- A register's own modifier put back. -/
theorem withXM_xmNat (v : Word) (lay : XLayout) : withXM v lay (BitVec.ofNat 36 (xmNat v lay)) = v := by
  apply BitVec.eq_of_toNat_eq
  have h := withXM_sub_toNat (v := v) (lay := lay) (Nat.zero_le _)
  rwa [Nat.sub_zero, Nat.sub_zero] at h

/-! The frame pointer (R275) -/

theorem pow_rcsLayout (s : State) : 2 ^ xmWidth (rcsLayout s) = if s.dr.getLsbD 28 then 2 ^ 24 else 2 ^ 18 := by
  rw [rcsLayout, State.x24]
  split <;> rfl

/-- EX0 after its frame pointer was replaced. -/
theorem x_setFramePointer (s : State) (fp : Nat) :
    (s.setFramePointer fp).x 96 = withXM (s.x 96) (rcsLayout s) (BitVec.ofNat 36 fp) := x_setX_self _ _ _

theorem framePointer_setFramePointer {s : State} {fp : Nat} (h : fp ≤ framePointer s) :
    framePointer (s.setFramePointer fp) = fp :=
  (congrArg (xmNat · (rcsLayout s)) (x_setFramePointer s fp)).trans (xmNat_withXM h)

theorem framePointer_setX_ne {s : State} {r : GrsAddr} (v : Word) (h : r ≠ 96) :
    framePointer (s.setX r v) = framePointer s :=
  congrArg (xmNat · (rcsLayout s)) (x_setX_ne s r 96 v h.symm)

/-! The checks of the two commands that move it (R276, R278, R279) -/

theorem pushCheck_passes {s : State} (hv : (s.b rcsBr).void = false) (hl : (s.b rcsBr).lower + 2 ≤ framePointer s) :
    pushCheck s = .ok (framePointer s - 2) := by
  have hw : frameWords = 2 := rfl
  have hfits : ¬((s.b rcsBr).void = true ∨ (framePointer s : Int) - frameWords < (s.b rcsBr).lower) := by
    rw [hv, hw]
    exact not_or.2 ⟨Bool.false_ne_true, by omega⟩
  rw [pushCheck, if_neg hfits]
  exact congrArg Except.ok (by omega)

theorem pushCheck_overflows {s : State} (h : (s.b rcsBr).void = true ∨ framePointer s < (s.b rcsBr).lower + 2) :
    pushCheck s = .error (.rcsFault .overflow (oc 36 ((framePointer s : Int) - 2))) := by
  have hw : frameWords = 2 := rfl
  exact if_pos (h.imp_right fun hl => by rw [hw]; omega)

theorem popCheck_underflows {s : State} (h : (s.b rcsBr).void = true ∨ (s.b rcsBr).upper + 1 < framePointer s + 2) :
    popCheck s = .error (.rcsFault .underflow (oc 36 ((framePointer s : Int) + 2))) := if_pos h

theorem popCheck_belowLower {s : State} (hv : (s.b rcsBr).void = false)
    (hu : framePointer s + 2 ≤ (s.b rcsBr).upper + 1) (hl : framePointer s < (s.b rcsBr).lower) :
    popCheck s = .error (limitsViolation false rcsBr (framePointer s)) := by
  have hfits : ¬((s.b rcsBr).void = true ∨ framePointer s + frameWords > (s.b rcsBr).upper + 1) := by
    rw [hv]
    exact not_or.2 ⟨Bool.false_ne_true, Nat.not_lt.2 hu⟩
  rw [popCheck, if_neg hfits, if_pos hl]

/-! RCSCHK (R281) -/

/-- The state after a push-check that passes: the frame pointer moved down by a frame, then put in `rd`. -/
def State.pushChecked (s : State) (rd : GrsAddr) : State :=
  (s.setFramePointer (framePointer s - 2)).setX rd (BitVec.ofNat 36 (framePointer s - 2))

theorem execRcschk_passes {s : State} (rd : GrsAddr) (hv : (s.b rcsBr).void = false)
    (hl : (s.b rcsBr).lower + 2 ≤ framePointer s) : execRcschk rd s = .next (s.pushChecked rd) := by
  rw [execRcschk, pushCheck_passes hv hl]
  rfl

theorem pushChecked_x_self (s : State) (rd : GrsAddr) : ((s.pushChecked rd).x rd).toNat = framePointer s - 2 := by
  have hword : framePointer s < 2 ^ 36 := BitVec.isLt _
  rw [State.pushChecked, x_setX_self, BitVec.toNat_ofNat, Nat.mod_eq_of_lt (by omega)]

theorem pushChecked_x_ex0 (s : State) {rd : GrsAddr} (h : rd ≠ 96) :
    (s.pushChecked rd).x 96 = withXM (s.x 96) (rcsLayout s) (BitVec.ofNat 36 (framePointer s - 2)) :=
  (x_setX_ne _ _ _ _ h.symm).trans (x_setFramePointer s _)

theorem framePointer_pushChecked (s : State) {rd : GrsAddr} (h : rd ≠ 96) :
    framePointer (s.pushChecked rd) = framePointer s - 2 :=
  (framePointer_setX_ne _ h).trans (framePointer_setFramePointer (Nat.sub_le _ _))

theorem framed_pushChecked (s : State) (rd : GrsAddr) : framed [rd, 96] 0 s (s.pushChecked rd) :=
  framed_setX_cons (framed_setX s rcsXr _) rd _

theorem execRcschk_overflows {s : State} (rd : GrsAddr)
    (h : (s.b rcsBr).void = true ∨ framePointer s < (s.b rcsBr).lower + 2) :
    execRcschk rd s = .fault (.rcsFault .overflow (oc 36 ((framePointer s : Int) - 2))) := by
  rw [execRcschk, pushCheck_overflows h]
  rfl

/-- Settles O54: the checked frame pointer is put in EX0, then in the destination. -/
theorem pushCheckResult : Obligations.PushCheckResult := by
  intro s rd fp
  have hfp : framePointer s = fp := framePointer_eq s
  rw [← hfp]
  refine ⟨fun hv hl => ?_, execRcschk_overflows rd⟩
  refine ⟨_, execRcschk_passes rd hv hl, pushChecked_x_self s rd, fun hne => ?_, rfl, framed_pushChecked s rd⟩
  rw [pushChecked_x_ex0 s hne]
  exact withXM_sub_toNat (Nat.le_of_add_left_le hl)

/-! RCSPOP (R278, R284) -/

theorem execRcspop_present {s : State} {rd : GrsAddr} {a : AbsAddr} (hrd : rd.toNat + 2 ≤ 128)
    (hl : inLimits (s.b rcsBr) (framePointer s) 2) (ha : addrPlus (s.b rcsBr).base (framePointer s) = a)
    (hs : allPresent s a 2) : execRcspop rd s = .next (((s.drew 2).setFramePointer (framePointer s + 2)).setPair rd
      (dw (s.readWord 0 a) (s.readWord 1 (addrPlus a 1)))) := by
  rw [execRcspop, if_pos (groupOK_iff.2 hrd), popCheck_passes hl]
  dsimp only
  rw [ha, memRead_present hs]
  rfl

theorem execRcspop_of_error {s : State} {rd : GrsAddr} {f : Fault} (hrd : rd.toNat + 2 ≤ 128)
    (h : popCheck s = .error f) : execRcspop rd s = .fault f := by
  rw [execRcspop, if_pos (groupOK_iff.2 hrd), h]
  rfl

theorem framed_rcspop (s : State) (fp : Nat) (rd : GrsAddr) (d : DWord) :
    framed [rd, grsPlus rd 1, 96] 2 s (((s.drew 2).setFramePointer fp).setPair rd d) :=
  framed_setPair_append (framed_read_setX s 2 rcsXr _) rd d

/-- Settles O56: the frame is read and the pointer moved up where the check passes, and its two faults otherwise. -/
theorem popResult : Obligations.PopResult := by
  intro s rd hrd size fp b a
  have hfp : framePointer s = fp := framePointer_eq s
  have hsize : 2 ^ xmWidth (rcsLayout s) = size := pow_rcsLayout s
  have ha : addrPlus b.base (framePointer s) = a := congrArg (addrPlus b.base) hfp
  rw [← hfp, ← hsize]
  refine ⟨fun hl hs => ?_, fun h => execRcspop_of_error hrd (popCheck_underflows h),
    fun hv hu hl => execRcspop_of_error hrd (popCheck_belowLower hv hu hl)⟩
  refine ⟨_, execRcspop_present hrd hl ha hs, setPair_x_first _ rd _ _, setPair_x_second _ rd _ _, fun h0 h1 => ?_, rfl,
    framed_rcspop s _ rd _⟩
  rw [setPair_x_ne h0.symm h1.symm, x_setFramePointer]
  exact withXM_ofNat_toNat (s.x 96) (rcsLayout s) (framePointer s + 2)

/-! The round trip (R284) -/

theorem readWord_of_not_shared {s : State} (i : Nat) {a : AbsAddr} (h : s.sharedWord a = false) :
    s.readWord i a = s.mem.read a := if_neg (Bool.eq_false_iff.1 h)

/-- A frame pushed at the frame pointer and popped there: the pop reads the words that the push stored. -/
theorem push_pop {s : State} {ra rd : GrsAddr} {a : AbsAddr} (hwf : s.memInv = true) (hra : ra.toNat + 2 ≤ 128)
    (hrd : rd.toNat + 2 ≤ 128) (hl : inLimits (s.b rcsBr) (framePointer s) 2)
    (ha : addrPlus (s.b rcsBr).base (framePointer s) = a) (hs : allPresent s a 2) (h0 : s.sharedWord a = false)
    (h1 : s.sharedWord (addrPlus a 1) = false) :
    ∃ t u, execRcswr ra s = .next t ∧ execRcspop rd t = .next u ∧ u.x rd = s.x ra ∧
      u.x (grsPlus rd 1) = s.x (grsPlus ra 1) ∧ (rd ≠ 96 → grsPlus rd 1 ≠ 96 →
        u.x 96 = withXM (s.x 96) (rcsLayout s) (BitVec.ofNat 36 (framePointer s + 2))) := by
  subst ha
  have hpush : execRcswr ra s = _ := (if_pos (groupOK_iff.2 hra)).trans (pushFrame_present (s.x ra) _ hl hs)
  obtain ⟨hread0, hread1, -⟩ := writeWords_two hwf (addrPlus (s.b rcsBr).base (framePointer s)) (s.x ra)
    (s.x (grsPlus ra 1))
  refine ⟨_, _, hpush, execRcspop_present hrd hl rfl hs, ?_, ?_, fun hne0 hne1 => ?_⟩
  · rw [setPair_x_first, readWord_of_not_shared]
    exacts [hread0, h0]
  · rw [setPair_x_second, readWord_of_not_shared]
    exacts [hread1, h1]
  · rw [setPair_x_ne hne0.symm hne1.symm, x_setFramePointer]
    rfl

/-- Settles O57: the pop finds the pointer and the words where the push-check and the push left them, and the old
pointer put back over the moved one makes EX0 what it was. -/
theorem pushPopRoundTrip : Obligations.PushPopRoundTrip := by
  intro s rc ra rd hwf hra hrd hrc hrd0 hrd1 fp a hv hlower hupper hs hshared0 hshared1
  have hfp : framePointer s = fp := framePointer_eq s
  rw [← hfp] at hlower hupper
  have hfp1 : framePointer (s.pushChecked rc) = framePointer s - 2 := framePointer_pushChecked s hrc
  have hback : framePointer s - 2 + 2 = framePointer s := by omega
  have hl : inLimits (s.b rcsBr) (framePointer s - 2) 2 := ⟨hv, Nat.le_sub_of_add_le hlower, hback.symm ▸ hupper⟩
  have ha : addrPlus (s.b rcsBr).base (framePointer (s.pushChecked rc)) = a := by rw [hfp1, hfp]; rfl
  obtain ⟨t, u, hpush, hpop, hfirst, hsecond, hx⟩ :=
    push_pop (s := s.pushChecked rc) hwf hra hrd (hfp1 ▸ hl) ha hs hshared0 hshared1
  refine ⟨_, t, u, execRcschk_passes rc hv hlower, hpush, hpop, hfirst, hsecond, (hx hrd0 hrd1).trans ?_⟩
  rw [hfp1, hback, pushChecked_x_ex0 s hrc]
  exact (withXM_withXM _ _ _ _).trans (withXM_xmNat _ _)

end Sys2Proof.Machine
end

section
/-! Register copies and the writes of DR, PAR and KEY (R300 to R309 of 46_register_file.md). -/

namespace Sys2Proof.Machine

/-! Copies into a register (R300 to R302, R304, R306, R308) -/

/-- The number that RDSTAT delivers (R308). -/
theorem statWord_toNat (t : Stat) :
    (statWord t).toNat = t.c.toNat * 8 + t.o.toNat * 4 + t.d.toNat * 2 + t.u.toNat := by
  have hc := place_toNat (w := 36) (BitVec.ofBool t.c) 3 (by omega)
  have ho := or_place_toNat hc (BitVec.ofBool t.o) 2 (by omega) (by omega)
  have hd := or_place_toNat ho (BitVec.ofBool t.d) 1 (by omega) (by omega)
  have hu := or_place_toNat hd (BitVec.ofBool t.u) 0 (by omega) (by omega)
  simp only [BitVec.toNat_ofBool, Nat.pow_zero, Nat.mul_one] at hu
  exact hu

/-- Settles O36: each command writes one register and no flag; KEY and STAT enter it by their numbers. -/
theorem registerReadResult : Obligations.RegisterReadResult := by
  intro s rd ra lit
  have hkey : s.key.setWidth 36 = BitVec.ofNat 36 s.key.toNat := (BitVec.ofNat_toNat 36 s.key).symm
  rw [← hkey, ← statWord_toNat, BitVec.ofNat_toNat, BitVec.setWidth_eq]
  exact ⟨completesTo_setX rfl, completesTo_setX rfl, completesTo_setX rfl, completesTo_setX rfl, completesTo_setX rfl,
    completesTo_setX rfl⟩

/-! Writes of DR, PAR and KEY (R303, R305, R307, R309) -/

/-- Outside DR, PAR, KEY and their written marks nothing changes. -/
def specialsOnly (s t : State) : Prop :=
  grsKept [] s t ∧ brKept [] s t ∧ storageKept [] s t ∧ samePorts s t ∧ t.stat = s.stat ∧ t.draws = s.draws

/-- The frame holds whatever DR, PAR, KEY and their marks become. -/
theorem specialsOnly_of_specials {s : State} {dr par : Word} {key : BitVec 18} {wdr wpar wkey : Bool} :
    specialsOnly s { s with dr := dr, par := par, key := key, written := ⟨s.written.grs, wdr, wpar, wkey⟩ } :=
  ⟨fun _ _ => ⟨rfl, rfl⟩, fun _ _ => rfl, fun _ _ => rfl, ⟨rfl, rfl, rfl⟩, rfl, rfl⟩

theorem getLsbD_withBit (v : Word) (i : Nat) (b : Bool) {k : Nat} (hk : k < 36) :
    (withBit v i b).getLsbD k = if k = i then b else v.getLsbD k := by
  rw [withBit]
  by_cases h : k = i
  · subst h
    cases b <;> simp [hk]
  · cases b
    · simp [h, hk]
    · simp [h, Ne.symm h]

/-- UPDF writes three different bits, so the order of the writes is free (R309). -/
theorem getLsbD_drWithFlags (dr : Word) (t : Stat) {k : Nat} (hk : k < 36) : (drWithFlags dr t).getLsbD k =
    if k = 17 then t.c else if k = 16 then t.o else if k = 12 then t.d else dr.getLsbD k := by
  rw [drWithFlags, getLsbD_withBit _ 12 _ hk, getLsbD_withBit _ 16 _ hk, getLsbD_withBit _ 17 _ hk]
  by_cases h12 : k = 12
  · subst h12
    rfl
  · simp only [if_neg h12]
    by_cases h16 : k = 16
    · subst h16
      rfl
    · simp only [if_neg h16]

/-- Settles O37: each command is one write of a special register; WRKEY's value by its number, UPDF's by its bits. -/
theorem specialWriteResult : Obligations.SpecialWriteResult := by
  intro s ra kept
  refine ⟨⟨_, rfl, rfl, rfl, rfl, rfl, specialsOnly_of_specials⟩,
    ⟨_, rfl, rfl, rfl, rfl, rfl, specialsOnly_of_specials⟩,
    ⟨_, rfl, ?_, rfl, rfl, rfl, specialsOnly_of_specials⟩,
    ⟨_, rfl, rfl, rfl, rfl, specialsOnly_of_specials, fun k hk => getLsbD_drWithFlags s.dr s.stat hk⟩⟩
  exact (extract_toNat (s.x ra) 0 18).trans (by rw [Nat.pow_zero, Nat.div_one])

end Sys2Proof.Machine
end

section
/-! The two words of a fault record (R330, R332 of 60_exceptions.md). -/

namespace Sys2Proof.Machine

theorem refSsf_lt (kind : RefKind) : refSsf kind < 2 ^ 8 := by
  cases kind <;> decide

theorem addrSsf_lt (kind : AddrKind) : addrSsf kind < 2 ^ 8 := by
  cases kind <;> decide

theorem bdtBr_toNat (l : BitVec 3) : (bdtBr l).toNat = 16 + l.toNat := by
  rw [bdtBr_eq, BitVec.toNat_ofNat, Nat.mod_eq_of_lt (by omega)]

theorem lbdiWord_eq (l : BitVec 3) (bdi : BitVec 15) :
    lbdiWord l bdi = BitVec.ofNat 36 (l.toNat * 2 ^ 33 + bdi.toNat * 2 ^ 18) := by
  have hl := place_toNat (w := 36) l 33 (by omega)
  have hbdi := or_place_toNat hl bdi 18 (by omega) (by omega)
  rw [lbdiWord, ← hbdi, BitVec.ofNat_toNat, BitVec.setWidth_eq]

/-- The fields of I0 do not run into each other where class and sub-reason have at most 6 and 8 bits (R330). -/
theorem i0_toNat {cls ssf : Nat} (hcls : cls < 2 ^ 6) (hssf : ssf < 2 ^ 8) (fetch : Bool) (br : BrNum) (info : Word) :
    (FaultRecord.mk cls ssf fetch br info).i0.toNat =
      cls * 2 ^ 30 + ssf * 2 ^ 22 + fetch.toNat * 2 ^ 21 + br.toNat * 2 ^ 16 := by
  have hfetch := Bool.toNat_le fetch
  rw [FaultRecord.i0, BitVec.toNat_ofNat]
  exact Nat.mod_eq_of_lt (by dsimp only; omega)

/-- I0 of an addressing exception, of either class: no fetch, and the table register of the level (R240, R332). -/
theorem addressing_i0_toNat {cls : Nat} (hcls : cls < 2 ^ 6) (kind : AddrKind) (l : BitVec 3) (info : Word) :
    (FaultRecord.mk cls (addrSsf kind) false (bdtBr l) info).i0.toNat =
      cls * 2 ^ 30 + addrSsf kind * 2 ^ 22 + (16 + l.toNat) * 2 ^ 16 := by
  rw [i0_toNat hcls (addrSsf_lt kind), bdtBr_toNat, Bool.toNat_false, Nat.zero_mul, Nat.add_zero]

/-- Settles O59: the fields of each kind's record stand beside each other in I0, and its information is I1. -/
theorem faultRecordWords : Obligations.FaultRecordWords := by
  refine ⟨fun kind fetch br w => Prod.ext ?_ rfl, fun kind l bdi => Prod.ext ?_ (lbdiWord_eq l bdi),
    fun kind l bdi => Prod.ext ?_ (lbdiWord_eq l bdi), fun w => Prod.ext ?_ rfl, fun w => Prod.ext ?_ rfl,
    fun w => Prod.ext ?_ rfl, fun w => Prod.ext ?_ rfl, Prod.ext ?_ rfl⟩
  case refine_1 => cases kind <;> exact i0_toNat (by decide) (refSsf_lt _) fetch br w
  case refine_2 => cases kind <;> exact addressing_i0_toNat (by decide) _ l _
  case refine_3 => cases kind <;> exact addressing_i0_toNat (by decide) _ l _
  -- for the other kinds I0 is a constant
  all_goals exact i0_toNat (by decide) (by decide) false _ _

end Sys2Proof.Machine
end
